-- ==== Sys2Proof/Word.lean ====
section
/-! DEFINITION. The widths of the engine's quantities (00_scope.md R9, R11, R14), and what an operation
code is: one of three formats and a value (30_encoding.md R70). -/

namespace Sys2Proof

/-- One line level, select or input: `true` is electrically high (00_scope.md R13). -/
abbrev Level := Bool

/-- A raw sample: bit `i` is the electrical level of input line `i` (30_encoding.md R76). -/
abbrev Sample := BitVec 6

/-- The decoded state word (30_encoding.md R78). -/
abbrev Word := BitVec 16

/-- A millisecond count of `W_T` = 32 bits (10_state.md R30, 60_exceptions.md R190). -/
abbrev Time := BitVec 32

/-- A cycle index 0..6. Index 7 is reserved and made unrepresentable (30_encoding.md R81). -/
abbrev Cycle := Fin 7

/-- The three operation formats of 30_encoding.md R70. -/
inductive Format where
  | host
  | phase
  | cyc
  deriving DecidableEq, Repr

/-- The width of a format in bits (30_encoding.md R70). -/
def Format.width : Format → Nat
  | .host => 2
  | .phase => 3
  | .cyc => 3

/-- An operation code: its format, and its bits in the low end of a byte, numbered as
spec/opcode_table.json numbers them (bit 0 the least significant). -/
structure Code where
  format : Format
  value : BitVec 8
  deriving DecidableEq, Repr

end Sys2Proof
end

