-- ==== Sys2Proof/Config.lean ====
section
/-! DEFINITION. What an implementation fixes (00_scope.md R10, R11), the input ports (10_state.md R31),
and the free values: constants without a body, so that no proof can see what they are. -/

namespace Sys2Proof

/-- The input ports the engine samples at one rising edge of `clk` (10_state.md R31). -/
structure Inputs where
  rst : Bool
  pollReq : Bool
  nowMs : Time
  lines : Sample
  deriving DecidableEq, Repr

/-- `PULL`, the pull-up policy of the input lines (00_scope.md R11, 93_implementation_defined.md U6). -/
inductive Pull where
  | internal
  | external
  deriving DecidableEq, Repr, Inhabited

/-- `SEL_IMPL`, how the select register is updated (00_scope.md R11, 93_implementation_defined.md U16). -/
inductive SelImpl where
  | explicitLevel
  | hardwareToggle
  deriving DecidableEq, Repr, Inhabited

/-- The parameters of 00_scope.md R10, and those of R11 that stay open. The bounds of R10 are `Params.wf`.
Only `nSettle` and `tMin` are read by a step. -/
structure Params where
  /-- `N_SETTLE`, the settle wait in ticks, at least 1 (00_scope.md R10). -/
  nSettle : Nat
  /-- `T_MIN`, the minimum re-poll interval in ms, at least 3 (00_scope.md R10). -/
  tMin : Nat
  /-- `F_CLK`, the clock frequency, in Hz (00_scope.md R10; the unit: log 21). Read by the timing figures
  of Machine/Timing.lean alone. -/
  fClk : Nat
  /-- `PULL` (00_scope.md R11). No effect on any rule. -/
  pull : Pull
  /-- `SEL_IMPL` (00_scope.md R11). No effect on any step (40_sequencer.md R105); it decides which adapter
  call a select write stands for (60_exceptions.md R193; log 24). -/
  selImpl : SelImpl
  deriving DecidableEq, Repr

/-- `W_SC`, the width of the settle counter: the least width that holds `N_SETTLE` (00_scope.md R11,
10_state.md R26). -/
def Params.scWidth (p : Params) : Nat := Nat.log2 p.nSettle + 1

/-- FREE VALUE (00_scope.md R8; log 2). The level of `rst` at tick `t` where the outside has settled none. -/
opaque Config.freeRst : Nat → Bool

/-- FREE VALUE (00_scope.md R8; log 2). The level of `poll_req` at tick `t` where the outside has settled none. -/
opaque Config.freePollReq : Nat → Bool

/-- FREE VALUE (00_scope.md R8, 60_exceptions.md R190; log 2, log 3). `now_ms` at tick `t` where the
outside has settled none. It is not even assumed monotonic. -/
opaque Config.freeNowMs : Nat → Time

/-- FREE VALUE (00_scope.md R8; log 2). The six line levels at tick `t` where the outside has settled none. -/
opaque Config.freeLines : Nat → Sample

/-- FREE VALUE (10_state.md R37, 70_reset_and_hazards.md R200: `RAW[0..6]` is unspecified after `RESET`;
log 25). What entry `c` of the sample buffer holds then. -/
opaque Config.freeRaw : Cycle → Sample

/-- The input ports at tick `t` where the outside has settled none: all four are free. -/
def Config.freeInputs (t : Nat) : Inputs :=
  { rst := Config.freeRst t, pollReq := Config.freePollReq t,
    nowMs := Config.freeNowMs t, lines := Config.freeLines t }

/-- FREE VALUE (00_scope.md R10: `N_SETTLE` has no default; log 4). How far `N_SETTLE` exceeds 1. -/
opaque Config.settleBeyondOne : Nat

/-- FREE VALUE (00_scope.md R10: `F_CLK` has no default; log 21). The clock frequency in Hz. -/
opaque Config.clockHz : Nat

/-- FREE VALUE (00_scope.md R11: `PULL` is internal or external; log 21). -/
opaque Config.pull : Pull

/-- FREE VALUE (00_scope.md R11: `SEL_IMPL` is explicit or toggle; log 21). -/
opaque Config.selImpl : SelImpl

/-- The parameters of the reset state: `N_SETTLE` open but at least 1, `T_MIN` the spec's default 3, the
others open (00_scope.md R10, R11; log 4, log 21). Statements hold for every value of `State.params`. -/
def Config.params : Params :=
  { nSettle := Config.settleBeyondOne + 1, tMin := 3, fClk := Config.clockHz, pull := Config.pull,
    selImpl := Config.selImpl }

/-- `SEL_IDLE`, the select level at reset and between polls: high (00_scope.md R11). -/
def Config.selIdle : Level := true

/-- `T0`, the default value of `now_ms` at the release of reset (00_scope.md R11, 60_exceptions.md R190). -/
def Config.t0 : Time := 0

/-- The idle value of the six lines, all released (30_encoding.md R76). -/
def Config.idleLines : Sample := 0x3F#6

end Sys2Proof
end

