-- ==== Sys2Proof/Syntax.lean ====
section
/-! DEFINITION. The fifteen operations of 30_encoding.md R70, one constructor per row of
spec/opcode_table.json. No format has an immediate or a register field, so no constructor has an
argument. -/

namespace Sys2Proof

/-- An operation of the engine (00_scope.md R15: what an instruction means for this hardware). -/
inductive Instr where
  /-- `HOST` `1x`, 70_reset_and_hazards.md R200. -/
  | reset
  /-- `HOST` `01`, 43_session.md R161. -/
  | poll
  /-- `HOST` `00`, 43_session.md R165. -/
  | nop
  /-- `PHASE` `000`, 43_session.md R160. -/
  | idle
  /-- `PHASE` `001`, 40_sequencer.md R106. -/
  | drive
  /-- `PHASE` `010`, 40_sequencer.md R107. -/
  | settle
  /-- `PHASE` `011`, 40_sequencer.md R108, R109. -/
  | sample
  /-- `PHASE` `100`, 43_session.md R164. -/
  | decode
  /-- `CYC` `000`, 40_sequencer.md R110. -/
  | lead
  /-- `CYC` `001`, 41_decoder.md R123. -/
  | pres
  /-- `CYC` `010`, 41_decoder.md R124. -/
  | ast
  /-- `CYC` `011`, 41_decoder.md R125. -/
  | dpad
  /-- `CYC` `100`, 42_mode_detector.md R145. -/
  | modep
  /-- `CYC` `101`, 41_decoder.md R126. -/
  | xyzm
  /-- `CYC` `110`, 41_decoder.md R127. -/
  | home
  deriving DecidableEq, Repr

/-- The format an operation belongs to (30_encoding.md R70). -/
def Instr.format : Instr → Format
  | .reset => .host
  | .poll => .host
  | .nop => .host
  | .idle => .phase
  | .drive => .phase
  | .settle => .phase
  | .sample => .phase
  | .decode => .phase
  | .lead => .cyc
  | .pres => .cyc
  | .ast => .cyc
  | .dpad => .cyc
  | .modep => .cyc
  | .xyzm => .cyc
  | .home => .cyc

end Sys2Proof
end

