-- ==== Sys2Proof/WellFormed.lean ====
section
/-! DEFINITION. What is well formed: an operation code (it fits its format and is not reserved,
30_encoding.md R70, R81, R82) and the parameters (00_scope.md R10). An `Instr` has no operand to check
(30_encoding.md R70), so every `Instr` is well formed. -/

namespace Sys2Proof

/-- The reserved values of a format: `PH` 5, 6, 7 (30_encoding.md R82) and `CYC` 7 (R81). -/
def Code.reserved (c : Code) : Bool :=
  match c.format with
  | .host => false
  | .phase => decide (5 ≤ c.value.toNat)
  | .cyc => decide (7 ≤ c.value.toNat)

/-- A code is well formed when it has no bit above its format's width and is not reserved. -/
def Code.wf (c : Code) : Bool :=
  decide (c.value.toNat < 2 ^ c.format.width) && !c.reserved

/-- The bounds of 00_scope.md R10: `N_SETTLE >= 1` and `T_MIN >= 3`. -/
abbrev Params.wf (p : Params) : Prop :=
  1 ≤ p.nSettle ∧ 3 ≤ p.tMin

end Sys2Proof
end

