-- ==== Sys2Proof/Decode.lean ====
section
/-! DEFINITION. The decoder of the three operation formats (30_encoding.md R71, R72, R74), total on any
byte and rejecting by name, and after it the encoder. -/

namespace Sys2Proof

/-- Why a code names no operation. -/
inductive DecodeError where
  /-- A bit above the format's width is 1: the byte is no code of that format (30_encoding.md R70). -/
  | codeTooWide (f : Format) (v : BitVec 8)
  /-- `PH` code 5, 6 or 7 (30_encoding.md R82). -/
  | reservedPhase (v : BitVec 8)
  /-- `CYC` code 7 (30_encoding.md R81). -/
  | reservedCycle (v : BitVec 8)
  deriving DecidableEq, Repr

/-- Format `HOST`, `rst` in bit 1 and `poll_req` in bit 0 (30_encoding.md R71). -/
def decodeHost (v : BitVec 8) : Except DecodeError Instr :=
  match v.toNat with
  | 0 => .ok .nop
  | 1 => .ok .poll
  | 2 => .ok .reset
  | 3 => .ok .reset
  | _ => .error (.codeTooWide .host v)

/-- Format `PHASE` (30_encoding.md R72). -/
def decodePhase (v : BitVec 8) : Except DecodeError Instr :=
  match v.toNat with
  | 0 => .ok .idle
  | 1 => .ok .drive
  | 2 => .ok .settle
  | 3 => .ok .sample
  | 4 => .ok .decode
  | 5 => .error (.reservedPhase v)
  | 6 => .error (.reservedPhase v)
  | 7 => .error (.reservedPhase v)
  | _ => .error (.codeTooWide .phase v)

/-- Format `CYC` (30_encoding.md R73, R74). -/
def decodeCyc (v : BitVec 8) : Except DecodeError Instr :=
  match v.toNat with
  | 0 => .ok .lead
  | 1 => .ok .pres
  | 2 => .ok .ast
  | 3 => .ok .dpad
  | 4 => .ok .modep
  | 5 => .ok .xyzm
  | 6 => .ok .home
  | 7 => .error (.reservedCycle v)
  | _ => .error (.codeTooWide .cyc v)

/-- The operation a code names. -/
def decode (c : Code) : Except DecodeError Instr :=
  match c.format with
  | .host => decodeHost c.value
  | .phase => decodePhase c.value
  | .cyc => decodeCyc c.value

/-- Every code of an operation. Only `RESET` has two, since `poll_req` is ignored (30_encoding.md R71). -/
def codesOf : Instr → List Code
  | .reset => [⟨.host, 0b10#8⟩, ⟨.host, 0b11#8⟩]
  | .poll => [⟨.host, 0b01#8⟩]
  | .nop => [⟨.host, 0b00#8⟩]
  | .idle => [⟨.phase, 0b000#8⟩]
  | .drive => [⟨.phase, 0b001#8⟩]
  | .settle => [⟨.phase, 0b010#8⟩]
  | .sample => [⟨.phase, 0b011#8⟩]
  | .decode => [⟨.phase, 0b100#8⟩]
  | .lead => [⟨.cyc, 0b000#8⟩]
  | .pres => [⟨.cyc, 0b001#8⟩]
  | .ast => [⟨.cyc, 0b010#8⟩]
  | .dpad => [⟨.cyc, 0b011#8⟩]
  | .modep => [⟨.cyc, 0b100#8⟩]
  | .xyzm => [⟨.cyc, 0b101#8⟩]
  | .home => [⟨.cyc, 0b110#8⟩]

/-- The code of an operation, every ignored bit 0. -/
def encode (i : Instr) : Code :=
  match codesOf i with
  | c :: _ => c
  | [] => ⟨.host, 0#8⟩

/-- The formats a table word of `nbits` bits may belong to, in the order 30_encoding.md R70 selects an
operation: first `HOST`, then `PHASE`, then `CYC`. A word as wide as one format's code is of that width;
a whole byte may be of any (log 11). -/
def tableFormats (nbits : Nat) : List Format :=
  match nbits with
  | 2 => [.host]
  | 3 => [.phase, .cyc]
  | _ => [.host, .phase, .cyc]

/-- The first of the formats in which the byte is a code. -/
def decodeFirst (v : BitVec 8) : List Format → Option Instr
  | [] => none
  | f :: fs =>
    match decode ⟨f, v⟩ with
    | .ok i => some i
    | .error _ => decodeFirst v fs

/-- The operation the decoder reads from a table word. The three formats of the table share their codes,
so a word alone does not name a row; the order of `tableFormats` decides (log 11). -/
def decodeTableWord (nbits w : Nat) : Option Instr :=
  if w < 256 then decodeFirst (BitVec.ofNat 8 w) (tableFormats nbits) else none

end Sys2Proof
end

