-- ==== Sys2Proof/Machine/State.lean ====
section
/-! DEFINITION. The engine's state: the nine elements of 10_state.md R20, and the model's own fields that
carry the inputs, the parameters and the event trace. Faults and refusals. -/

namespace Sys2Proof.Machine

open Sys2Proof

/-- The sequencer phase, five values; the reserved codes are unrepresentable (10_state.md R24,
30_encoding.md R82). -/
inductive Phase where
  | idle
  | drive
  | settle
  | sample
  | decode
  deriving DecidableEq, Repr

/-- The observable events of 40_sequencer.md R114. -/
inductive Event where
  /-- `MaskOn`: the source's `suppressInterrupts()`. -/
  | maskOn
  /-- `SelWrite(l)`: a write of the select pin. -/
  | selWrite (l : Level)
  /-- `Sample(c, v)`: the bulk read of the six lines in cycle `c`. -/
  | sample (c : Cycle) (v : Sample)
  /-- `MaskOff`: the source's `restoreInterrupts()`. -/
  | maskOff
  /-- `Return(w)`: `getState()` returns `w`. -/
  | ret (w : Word)
  deriving DecidableEq, Repr

/-- The sample buffer `RAW[0..6]`, 7 entries of 6 bits (10_state.md R20, R27), and which entries a `SAMPLE`
step has written since reset, the condition of R39 (log 5). -/
structure RawBuffer where
  /-- `RAW[0]` to `RAW[6]`. -/
  values : Vector Sample 7
  /-- Model: the entries written since reset. -/
  written : Vector Bool 7
  deriving DecidableEq, Repr

/-- The settle counter: `W_SC` bits (00_scope.md R11, 10_state.md R26). The width depends on the parameter
`N_SETTLE`, so the counter carries it; that it is `Params.scWidth` is part of the invariant (log 7). -/
structure SettleCounter where
  width : Nat
  value : BitVec width
  deriving DecidableEq, Repr

/-- The counter at 0, the number itself and not its remainder, so that it evaluates at an open width. -/
def SettleCounter.zero (width : Nat) : SettleCounter :=
  { width := width, value := BitVec.ofNatLT 0 (Nat.two_pow_pos width) }

/-- The machine. The first nine fields are the spec's state (10_state.md R20); the last five are the
model's own (log 1, 2, 4, 8). -/
structure State where
  /-- `SEL`, the level driven on the select line (10_state.md R21). -/
  sel : Level
  /-- `IM`, the interrupt-mask request (10_state.md R22). -/
  im : Bool
  /-- `PH`, the sequencer phase (10_state.md R24). -/
  ph : Phase
  /-- `CYC`, the cycle index (10_state.md R25). -/
  cyc : Cycle
  /-- `SC`, the settle down-counter (10_state.md R26; log 7). -/
  sc : SettleCounter
  /-- `RAW`, the sample buffer (10_state.md R27, R37, R39; log 5, log 25). -/
  raw : RawBuffer
  /-- `WORD`, the cached decoded state word (10_state.md R28). -/
  word : Word
  /-- `MODE6`, the Session Mode Flag (10_state.md R29). -/
  mode6 : Bool
  /-- `LAST_T`, the time of the last poll in ms (10_state.md R30). -/
  lastT : Time
  /-- Model: the parameters of the step relation, written by no step (10_state.md R33; log 4, log 21). -/
  params : Params
  /-- Model: the input ports as sampled at the tick being taken (10_state.md R31; log 1). -/
  inputs : Inputs
  /-- Model: the ports' values at the coming ticks, as far as the outside has settled them (log 1). -/
  pending : List Inputs
  /-- Model: how many ticks were taken; indexes the free values (log 2). -/
  ticks : Nat
  /-- Model: the event trace, oldest first (00_scope.md R14, 40_sequencer.md R114; log 8). -/
  trace : List Event
  deriving DecidableEq, Repr

/-- Why the machine stops. The engine itself raises nothing (60_exceptions.md R180). -/
inductive Fault where
  /-- A decode read entry `c` of `RAW`, which no `SAMPLE` step has written since reset. Raised by
  `DECODE` and by the decoder halves of `PRES`, `AST`, `DPAD`, `MODEP`, `XYZM`, `HOME`. Safe: 10_state.md
  R39 says that a model must treat such a read as a fault and that no execution of the engine gets here
  (93_implementation_defined.md U9; log 5). -/
  | rawUnwritten (c : Cycle)
  deriving DecidableEq, Repr

/-- Why an operation has no meaning. -/
inductive Refusal where
  /-- Raised by an arm of `exec` whose operation is not modelled; no arm is. Safe. -/
  | notModelled (mnemonic : String)
  /-- Raised by `step` if the selected code names no operation. Safe: the phase type has no reserved
  value, so it never happens (30_encoding.md R81, R82). -/
  | reservedCode (e : DecodeError)
  /-- Raised by `SAMPLE`, and by the sequencer half of `HOME`, where the increment of `CYC` would form
  index 7, which "exists in neither space and is never produced" (20_memory.md R53): at index 6 with
  `MODE6 = 0`. Safe: no run gets here (10_state.md R25; log 6). -/
  | cycleSeven
  deriving DecidableEq, Repr

/-- `RAW[0..6] <- unspecified` (70_reset_and_hazards.md R200): every entry holds a free value, and none is
written (10_state.md R37, R39; log 5, log 25). -/
def RawBuffer.unspecified : RawBuffer :=
  { values := #v[Config.freeRaw 0, Config.freeRaw 1, Config.freeRaw 2, Config.freeRaw 3,
      Config.freeRaw 4, Config.freeRaw 5, Config.freeRaw 6]
    written := #v[false, false, false, false, false, false, false] }

/-- The state after `RESET` (10_state.md R37). The model's own fields: log 4, log 8, log 13. -/
def State.reset : State :=
  { sel := Config.selIdle
    im := false
    ph := .idle
    cyc := 0
    sc := SettleCounter.zero Config.params.scWidth
    raw := RawBuffer.unspecified
    word := 0x0000#16
    mode6 := false
    lastT := 0#32
    params := Config.params
    inputs := { rst := true, pollReq := false, nowMs := Config.t0, lines := Config.idleLines }
    pending := []
    ticks := 0
    trace := [] }

end Sys2Proof.Machine
end

