-- ==== Sys2Proof/Machine/Flags.lean ====
section
/-! DEFINITION. The fields of `WORD` (30_encoding.md R78), the two probes that are the and of two lines
(41_decoder.md R123, 42_mode_detector.md R145), the constraint enforcer (41_decoder.md R130 to R133), and
what the Session Mode Flag decides (42_mode_detector.md R146). -/

namespace Sys2Proof.Machine

open Sys2Proof

/-- The fifteen logical signals of the decoded state word (30_encoding.md R78). -/
inductive Field where
  | present
  | mode6
  | up
  | down
  | left
  | right
  | a
  | b
  | c
  | x
  | y
  | z
  | start
  | mode
  | home
  deriving DecidableEq, Repr

/-- The bit of `WORD` that holds a field (30_encoding.md R78). -/
def Field.bit : Field → Nat
  | .present => 0
  | .mode6 => 1
  | .up => 2
  | .down => 3
  | .left => 4
  | .right => 5
  | .a => 6
  | .b => 7
  | .c => 8
  | .x => 9
  | .y => 10
  | .z => 11
  | .start => 12
  | .mode => 13
  | .home => 14

/-- `w[i] <- v` for one bit of a word. -/
def setBit (w : Word) (i : Nat) (v : Bool) : Word :=
  (w &&& ~~~(1#16 <<< i)) ||| (if v then 1#16 <<< i else 0#16)

/-- The value of a field. -/
def getField (w : Word) (f : Field) : Bool := w.getLsbD f.bit

/-- `w.f <- v`. -/
def setField (w : Word) (f : Field) (v : Bool) : Word := setBit w f.bit v

/-- Presence: lines 2 and 3 of cycle 1 both active (41_decoder.md R123). -/
def presenceProbe (act : Sample) : Bool := act.getLsbD 2 && act.getLsbD 3

/-- Six-button: lines 0 and 1 of cycle 4 both active (42_mode_detector.md R145). -/
def modeProbe (act : Sample) : Bool := act.getLsbD 0 && act.getLsbD 1

/-- `ncyc`: the number of cycles of a poll, from `MODE6` (42_mode_detector.md R146). -/
def ncyc (mode6 : Bool) : Nat := if mode6 then 7 else 5

/-- One D-pad axis: both bits cleared if both are 1 (41_decoder.md R130). -/
def clearAxis (f g : Field) (w : Word) : Word :=
  if getField w f && getField w g then setField (setField w f false) g false else w

/-- Opposite-direction exclusion on both axes (41_decoder.md R130). -/
def clearOpposites (w : Word) : Word := clearAxis .left .right (clearAxis .up .down w)

/-- Mode-exclusive clear: `w & ~0x6E00` if `w.MODE6 = 0` (41_decoder.md R131). -/
def clearExclusive (w : Word) : Word := if getField w .mode6 then w else w &&& ~~~0x6E00#16

/-- Presence clear: `0x0000` if `w.PRESENT = 0` (41_decoder.md R132). -/
def clearAbsent (w : Word) : Word := if getField w .present then w else 0x0000#16

/-- The constraint enforcer, in the order of 41_decoder.md R133. -/
def enforce (w : Word) : Word := clearAbsent (clearExclusive (clearOpposites w))

end Sys2Proof.Machine
end

