-- ==== Sys2Proof/Machine/Operands.lean ====
section
/-! DEFINITION. The engine's one operand form, the activated sample (30_encoding.md R77, 41_decoder.md
R122), the reading and writing of the sample buffer (20_memory.md R57), and the arithmetic of the settle
counter (43_session.md R167). -/

namespace Sys2Proof.Machine

open Sys2Proof

/-- What can be read of entry `c`: its value, or nothing where no `SAMPLE` step has written it since reset
(10_state.md R39). -/
def RawBuffer.entry (raw : RawBuffer) (c : Cycle) : Option Sample :=
  if raw.written[c] then some raw.values[c] else none

/-- `RAW[c]`; an error that names the entry where no `SAMPLE` step has written it (10_state.md R39). -/
def RawBuffer.read (raw : RawBuffer) (c : Cycle) : Except Cycle Sample :=
  match raw.entry c with
  | some v => .ok v
  | none => .error c

/-- `RAW[c] <- v`, the whole entry (20_memory.md R57), which is written from then on. -/
def RawBuffer.write (raw : RawBuffer) (c : Cycle) (v : Sample) : RawBuffer :=
  { values := raw.values.set c.val v c.isLt, written := raw.written.set c.val true c.isLt }

/-- The polarity inversion: bit `i` is 1 exactly when line `i` was electrically low (30_encoding.md R77). -/
def activate (v : Sample) : Sample := ~~~v

/-- `act_c = ~RAW[c]` (41_decoder.md R122). -/
def RawBuffer.act (raw : RawBuffer) (c : Cycle) : Except Cycle Sample :=
  match raw.read c with
  | .ok v => .ok (activate v)
  | .error e => .error e

/-- The number the settle counter holds. -/
def SettleCounter.count (c : SettleCounter) : Nat := c.value.toNat

/-- `SC <- N_SETTLE` (40_sequencer.md R106), at the width `W_SC`. -/
def SettleCounter.load (p : Params) : SettleCounter :=
  { width := p.scWidth, value := BitVec.ofNat p.scWidth p.nSettle }

/-- `SC - 1` (40_sequencer.md R107), at the counter's width. -/
def SettleCounter.dec (c : SettleCounter) : SettleCounter := { c with value := c.value - 1#c.width }

end Sys2Proof.Machine
end

