-- ==== Sys2Proof/Machine/Decoder.lean ====
section
/-! DEFINITION. The button decoder: the cycle table as data (30_encoding.md R74), the decoder half of each
cycle operation over the word under construction (41_decoder.md R123 to R129, 42_mode_detector.md R145),
and the whole function `decode` (41_decoder.md R134). -/

namespace Sys2Proof.Machine

open Sys2Proof

/-- What the decoder builds: the word `w` and the new belief `m_new` (41_decoder.md R120). -/
structure Decoded where
  w : Word
  mNew : Bool
  deriving DecidableEq, Repr

/-- Nothing decoded yet: `w = 0x0000` (41_decoder.md R134). -/
def Decoded.start : Decoded := { w := 0x0000#16, mNew := false }

/-- The copies of the cycle table: for each cycle, which line of its activated sample goes to which field
(30_encoding.md R74). Cycles 0, 1 and 4 copy nothing. -/
def cycleCopies (c : Cycle) : List (Nat × Field) :=
  match c.val with
  | 2 => [(4, .a), (5, .start)]
  | 3 => [(0, .up), (1, .down), (2, .left), (3, .right), (4, .b), (5, .c)]
  | 5 => [(0, .z), (1, .y), (2, .x), (3, .mode)]
  | 6 => [(0, .home)]
  | _ => []

/-- The copies of one row made into a word. -/
def copyLines (act : Sample) : List (Nat × Field) → Word → Word
  | [], w => w
  | (line, f) :: rest, w => copyLines act rest (setField w f (act.getLsbD line))

/-- The decoder half of a row that only copies lines. -/
def muxCopies (c : Cycle) (raw : RawBuffer) (d : Decoded) : Except Cycle Decoded :=
  match raw.act c with
  | .ok act => .ok { d with w := copyLines act (cycleCopies c) d.w }
  | .error e => .error e

/-- `PRES`: the first operation the decoder processes, so the word starts here from `0x0000`; absence
leaves it there and forces the mode false (41_decoder.md R123, R129, R134). -/
def muxPres (raw : RawBuffer) : Except Cycle Decoded :=
  match raw.act 1 with
  | .ok act =>
    .ok { w := setField Decoded.start.w .present (presenceProbe act), mNew := false }
  | .error e => .error e

/-- `AST`, processed only if present (41_decoder.md R124). -/
def muxAst (raw : RawBuffer) (d : Decoded) : Except Cycle Decoded :=
  if getField d.w .present then muxCopies 2 raw d else .ok d

/-- `DPAD`, processed only if present (41_decoder.md R125). -/
def muxDpad (raw : RawBuffer) (d : Decoded) : Except Cycle Decoded :=
  if getField d.w .present then muxCopies 3 raw d else .ok d

/-- `MODEP`, processed only if present (42_mode_detector.md R145). -/
def muxModep (raw : RawBuffer) (d : Decoded) : Except Cycle Decoded :=
  if getField d.w .present then
    match raw.act 4 with
    | .ok act => .ok { w := setField d.w .mode6 (modeProbe act), mNew := modeProbe act }
    | .error e => .error e
  else .ok d

/-- The condition under which cycles 5 and 6 contribute: present, believed six-button during the poll, and
probed six-button by it (41_decoder.md R128). -/
def extrasDecoded (mIn : Bool) (d : Decoded) : Bool := getField d.w .present && mIn && d.mNew

/-- `XYZM`, under the condition of 41_decoder.md R128 (R126). -/
def muxXyzm (raw : RawBuffer) (mIn : Bool) (d : Decoded) : Except Cycle Decoded :=
  if extrasDecoded mIn d then muxCopies 5 raw d else .ok d

/-- `HOME`, under the condition of 41_decoder.md R128 (R127). -/
def muxHome (raw : RawBuffer) (mIn : Bool) (d : Decoded) : Except Cycle Decoded :=
  if extrasDecoded mIn d then muxCopies 6 raw d else .ok d

/-- `decode(RAW, m_in)`: the six decoder halves in index order, then the constraint enforcer
(41_decoder.md R134). -/
def decodeSamples (raw : RawBuffer) (mIn : Bool) : Except Cycle Decoded := do
  let d ← muxPres raw
  let d ← muxAst raw d
  let d ← muxDpad raw d
  let d ← muxModep raw d
  let d ← muxXyzm raw mIn d
  let d ← muxHome raw mIn d
  return { d with w := enforce d.w }

end Sys2Proof.Machine
end

