-- ==== Sys2Proof/Machine/Ops.lean ====
section
/-! DEFINITION. The named operations over the state that the meanings share: sampling the ports and
selecting the operation of a step, `RESET`, the rate limiter, the phases, and the decoder half of a cycle.
Taking an exception and returning from one would stand here: the engine has neither (60_exceptions.md
R180, R189), so there is no such operation. -/

namespace Sys2Proof.Machine

open Sys2Proof

/-- How a meaning ends. -/
abbrev Result := Host.Outcome State Fault Refusal

/-! The step's inputs and its selection. -/

/-- The ports' values at the next tick: the first that the outside has settled, else free values
(00_scope.md R8; log 1, log 2). -/
def State.nextInputs (s : State) : Inputs :=
  match s.pending with
  | i :: _ => i
  | [] => Config.freeInputs s.ticks

/-- The ports' values `j` ticks from now. -/
def State.inputAt (s : State) (j : Nat) : Inputs :=
  match s.pending[j]? with
  | some i => i
  | none => Config.freeInputs (s.ticks + j)

/-- The rising edge of `clk`: all input ports are sampled (10_state.md R31). -/
def State.sampleInputs (s : State) : State :=
  { s with inputs := s.nextInputs, pending := s.pending.tail, ticks := s.ticks + 1 }

/-- The `HOST` code at the ports, `rst` in bit 1 (30_encoding.md R71). -/
def hostCode (i : Inputs) : Code :=
  { format := .host, value := BitVec.ofNat 8 (2 * i.rst.toNat + i.pollReq.toNat) }

/-- The `PHASE` code of a phase (30_encoding.md R72). -/
def Phase.code : Phase → Code
  | .idle => { format := .phase, value := 0b000#8 }
  | .drive => { format := .phase, value := 0b001#8 }
  | .settle => { format := .phase, value := 0b010#8 }
  | .sample => { format := .phase, value := 0b011#8 }
  | .decode => { format := .phase, value := 0b100#8 }

/-- The `CYC` code of a cycle index (30_encoding.md R73). -/
def cycleCode (c : Cycle) : Code := { format := .cyc, value := BitVec.ofNat 8 c.val }

/-- The code that selects a step: the `HOST` code where `rst = 1` and in `IDLE`, the `PHASE` code in every
other phase (43_session.md R160; log 10). -/
def State.selectedCode (s : State) : Code :=
  if s.inputs.rst || decide (s.ph = .idle) then hostCode s.inputs else s.ph.code

/-- The operation that the sampled inputs and the state select (43_session.md R160). -/
def State.selectInstr (s : State) : Except DecodeError Instr := decode s.selectedCode

/-! Operations on the state. -/

/-- `emit E` (00_scope.md R14). -/
def State.emit (s : State) (e : Event) : State := { s with trace := s.trace ++ [e] }

/-- `RESET` (70_reset_and_hazards.md R200). It emits nothing. `RAW` is unspecified after it:
free values, none of them written (log 5, log 25). -/
def State.resetEngine (s : State) : State :=
  { s with
    sel := Config.selIdle, im := false, ph := .idle, cyc := 0,
    sc := SettleCounter.zero s.params.scWidth, raw := RawBuffer.unspecified,
    word := 0x0000#16, mode6 := false, lastT := 0#32 }

/-- `elapsed`: the time since the last poll modulo 2^32 (43_session.md R161, R167). -/
def State.elapsed (s : State) : Time := s.inputs.nowMs - s.lastT

/-- The rate-limit test, a strict unsigned comparison (43_session.md R161). -/
def State.rateLimited (s : State) : Bool := decide (s.elapsed.toNat < s.params.tMin)

/-- The cached return: no state element is written (43_session.md R162). -/
def State.cachedReturn (s : State) : State := s.emit (.ret s.word)

/-- The accept step (43_session.md R163). -/
def State.accept (s : State) : State := { s with im := true, cyc := 0, ph := .drive }.emit .maskOn

/-- `POLL` in phase `IDLE` (43_session.md R161). -/
def State.pollIdle (s : State) : State := if s.rateLimited then s.cachedReturn else s.accept

/-- A step of phase `IDLE` (43_session.md R160). -/
def State.idleStep (s : State) : State := if s.inputs.pollReq then s.pollIdle else s

/-- `sel_level(c) = !c[0]` (30_encoding.md R75). -/
def selLevel (c : Cycle) : Level := !c.val.testBit 0

/-- Phase `DRIVE` for cycle `c` (40_sequencer.md R106). -/
def State.driveCycle (c : Cycle) (s : State) : State :=
  { s with sel := selLevel c, sc := SettleCounter.load s.params, ph := .settle }.emit (.selWrite (selLevel c))

/-- Phase `SETTLE` (40_sequencer.md R107). -/
def State.settleTick (s : State) : State :=
  if 1 < s.sc.count then { s with sc := s.sc.dec }
  else { s with sc := SettleCounter.zero s.sc.width, ph := .sample }

/-- Phase `SAMPLE`, first half: capture (40_sequencer.md R108). -/
def State.capture (c : Cycle) (s : State) : State :=
  { s with raw := s.raw.write c s.inputs.lines }.emit (.sample c s.inputs.lines)

/-- Phase `SAMPLE`, second half in the last cycle of a poll (40_sequencer.md R109). -/
def State.finishSampling (s : State) : State :=
  { s with im := false, ph := .decode }.emit .maskOff

/-- Phase `SAMPLE`, second half: advance or finish. The increment that would form index 7 is refused
(40_sequencer.md R109, 20_memory.md R53; log 6). -/
def State.advance (c : Cycle) (s : State) : Result :=
  if c.val = ncyc s.mode6 - 1 then .next s.finishSampling
  else if h : c.val + 1 < 7 then .next { s with cyc := ⟨c.val + 1, h⟩, ph := .drive }
  else .refused .cycleSeven

/-- Phase `SAMPLE` for cycle `c` (40_sequencer.md R108, R109: one step). -/
def State.sampleCycle (c : Cycle) (s : State) : Result := (s.capture c).advance c

/-- The completion of a poll with the decoder's result (43_session.md R164). DESIGN CHOICE: `RAW` keeps its
entries. 10_state.md R27 says that the model may keep them or not after the `DECODE` step (log 23). -/
def State.complete (d : Decoded) (s : State) : State :=
  { s with word := d.w, mode6 := d.mNew, lastT := s.inputs.nowMs, ph := .idle }.emit (.ret d.w)

/-- What follows a read of the sample buffer: the next state where a `SAMPLE` step has written every entry
read. Where none has written one of them the spec itself stops the model: "A model must treat a read of such
an entry as a fault of the model" (10_state.md R39, with 93_implementation_defined.md U9 and
92_eei_decisions.md D17; log 5). -/
def afterRead (r : Except Cycle Decoded) (next : Decoded → State) : Result :=
  match r with
  | .ok d => .next (next d)
  | .error c => .fault (.rawUnwritten c)

/-- Phase `DECODE` (43_session.md R164). -/
def State.decodeStep (s : State) : Result :=
  afterRead (decodeSamples s.raw s.mode6) fun d => s.complete d

/-- The step that the phase alone selects, as for `NOP`: in `IDLE` nothing, in every other phase the
phase's own (43_session.md R165). -/
def State.phaseStep (s : State) : Result :=
  match s.ph with
  | .idle => .next s
  | .drive => .next (s.driveCycle s.cyc)
  | .settle => .next s.settleTick
  | .sample => s.sampleCycle s.cyc
  | .decode => s.decodeStep

/-! The cycle operations. -/

/-- The word under construction as the state holds it between two decoder halves: `w` in `WORD` and
`m_new` in `WORD[1]`, which are equal (41_decoder.md R136; log 9). -/
def State.underConstruction (s : State) : Decoded :=
  { w := s.word, mNew := getField s.word .mode6 }

/-- The decoder half of a cycle operation as a step of its own: only `WORD` is written (log 9). -/
def State.decodeHalf (r : Except Cycle Decoded) (s : State) : Result :=
  afterRead r fun d => { s with word := d.w }

/-- A cycle operation of index `c` in the phase in progress: the sequencer half in `DRIVE`, `SETTLE` and
`SAMPLE` (40_sequencer.md R110, R111), the decoder half `dec` in `DECODE`; in `IDLE` no cycle is in
progress and the step is that phase's own (30_encoding.md R70; log 9). -/
def State.cycleStep (c : Cycle) (dec : Result) (s : State) : Result :=
  match s.ph with
  | .idle => .next s.idleStep
  | .drive => .next (s.driveCycle c)
  | .settle => .next s.settleTick
  | .sample => s.sampleCycle c
  | .decode => dec

end Sys2Proof.Machine
end

