-- ==== Sys2Proof/Machine/Cycles.lean ====
section
/-! DEFINITION. The seven cycle operations (30_encoding.md R74): the sequencer half of 40_sequencer.md
R110, R111 with each operation's own index, and its decoder half (41_decoder.md, 42_mode_detector.md). -/

namespace Sys2Proof.Machine

open Sys2Proof

/-- `LEAD`, cycle 0: sampled and never decoded (40_sequencer.md R110). -/
def execLead (s : State) : Result := s.cycleStep 0 (.next s)

/-- `PRES`, cycle 1 (40_sequencer.md R111, 41_decoder.md R123). -/
def execPres (s : State) : Result := s.cycleStep 1 (s.decodeHalf (muxPres s.raw))

/-- `AST`, cycle 2 (40_sequencer.md R111, 41_decoder.md R124). -/
def execAst (s : State) : Result :=
  s.cycleStep 2 (s.decodeHalf (muxAst s.raw s.underConstruction))

/-- `DPAD`, cycle 3 (40_sequencer.md R111, 41_decoder.md R125). -/
def execDpad (s : State) : Result :=
  s.cycleStep 3 (s.decodeHalf (muxDpad s.raw s.underConstruction))

/-- `MODEP`, cycle 4 (40_sequencer.md R111, 42_mode_detector.md R145). -/
def execModep (s : State) : Result :=
  s.cycleStep 4 (s.decodeHalf (muxModep s.raw s.underConstruction))

/-- `XYZM`, cycle 5 (40_sequencer.md R111, 41_decoder.md R126, R128). -/
def execXyzm (s : State) : Result :=
  s.cycleStep 5 (s.decodeHalf (muxXyzm s.raw s.mode6 s.underConstruction))

/-- `HOME`, cycle 6 (40_sequencer.md R111, 41_decoder.md R127, R128). -/
def execHome (s : State) : Result :=
  s.cycleStep 6 (s.decodeHalf (muxHome s.raw s.mode6 s.underConstruction))

end Sys2Proof.Machine
end

