-- ==== Sys2Proof/Machine/Sequencer.lean ====
section
/-! DEFINITION. The phases of the cycle sequencer: `DRIVE`, `SETTLE`, `SAMPLE` (40_sequencer.md). Each is
the step of its phase; the phase code was checked when the step was selected (log 15). -/

namespace Sys2Proof.Machine

open Sys2Proof

/-- `DRIVE` (40_sequencer.md R106). -/
def execDrive (s : State) : Result := .next (s.driveCycle s.cyc)

/-- `SETTLE` (40_sequencer.md R107). -/
def execSettle (s : State) : Result := .next s.settleTick

/-- `SAMPLE` (40_sequencer.md R108, R109). -/
def execSample (s : State) : Result := s.sampleCycle s.cyc

end Sys2Proof.Machine
end

