-- ==== Sys2Proof/Machine/Session.lean ====
section
/-! DEFINITION. The host operations `RESET`, `POLL`, `NOP` and the phases `IDLE`, `DECODE`
(43_session.md, 70_reset_and_hazards.md). -/

namespace Sys2Proof.Machine

open Sys2Proof

/-- `RESET`, in any phase (70_reset_and_hazards.md R200, R201). -/
def execReset (s : State) : Result := .next s.resetEngine

/-- `POLL`: the rate-limit test in `IDLE` (43_session.md R161 to R163); while busy it is neither acted on
nor remembered, and the step is the phase's own (R166). -/
def execPoll (s : State) : Result :=
  match s.ph with
  | .idle => .next s.pollIdle
  | _ => s.phaseStep

/-- `NOP`: nothing in `IDLE`, the phase's own step in any other phase (43_session.md R165). -/
def execNop (s : State) : Result := s.phaseStep

/-- `IDLE`: `POLL` if `poll_req = 1`, else `NOP` (43_session.md R160). -/
def execIdle (s : State) : Result := .next s.idleStep

/-- `DECODE` (43_session.md R164). -/
def execDecode (s : State) : Result := s.decodeStep

end Sys2Proof.Machine
end

