-- ==== Sys2Proof/Machine/Dispatch.lean ====
section
/-! DEFINITION. `exec`: one arm per operation, each one call of its meaning. -/

namespace Sys2Proof.Machine

open Sys2Proof

/-- The meaning of one operation in one state. -/
def exec (i : Instr) (s : State) : Host.Outcome State Fault Refusal :=
  match i with
  | .reset => Sys2Proof.Machine.execReset s
  | .poll => Sys2Proof.Machine.execPoll s
  | .nop => Sys2Proof.Machine.execNop s
  | .idle => Sys2Proof.Machine.execIdle s
  | .drive => Sys2Proof.Machine.execDrive s
  | .settle => Sys2Proof.Machine.execSettle s
  | .sample => Sys2Proof.Machine.execSample s
  | .decode => Sys2Proof.Machine.execDecode s
  | .lead => Sys2Proof.Machine.execLead s
  | .pres => Sys2Proof.Machine.execPres s
  | .ast => Sys2Proof.Machine.execAst s
  | .dpad => Sys2Proof.Machine.execDpad s
  | .modep => Sys2Proof.Machine.execModep s
  | .xyzm => Sys2Proof.Machine.execXyzm s
  | .home => Sys2Proof.Machine.execHome s

end Sys2Proof.Machine
end

