-- ==== Sys2Proof/Machine/Place.lean ====
section
/-! DEFINITION. Placing an operation so that the very next step selects it (log 12): the engine fetches
from no memory, so an operation is placed at the ports, in `PH` and in `CYC`. -/

namespace Sys2Proof.Machine

open Sys2Proof

/-- The ports at the next tick, as they were but for `rst` and `poll_req`. -/
def State.offer (rst pollReq : Bool) (s : State) : State :=
  { s with pending := { s.inputs with rst := rst, pollReq := pollReq } :: s.pending }

/-- `v` captured into entry `c` where no `SAMPLE` step has written it. -/
def RawBuffer.captureUnwritten (raw : RawBuffer) (v : Sample) (c : Cycle) : RawBuffer :=
  if raw.written[c] then raw else raw.write c v

/-- The captures that a `DECODE` needs of the poll before it, each as a `SAMPLE` step does it
(40_sequencer.md R108): an entry not yet written takes the levels of the six lines at the ports. No value
of an entry is made up (10_state.md R39). -/
def State.capturePorts (s : State) : State :=
  { s with
    raw := [(0 : Cycle), 1, 2, 3, 4, 5, 6].foldl (fun raw c => raw.captureUnwritten s.inputs.lines c) s.raw }

/-- The sequencer at the start of cycle `c`. -/
def State.atCycle (c : Cycle) (s : State) : State :=
  { s.offer false false with ph := .drive, cyc := c }

/-- The state in which the next step runs `i`: a host operation at the ports, a phase operation in `PH`,
a cycle operation in `CYC` with the phase at `DRIVE`. -/
def State.place (i : Instr) (s : State) : State :=
  match i with
  | .reset => s.offer true false
  | .poll => { s.offer false true with ph := .idle }
  | .nop => { s.offer false false with ph := .idle }
  | .idle => { s.offer false false with ph := .idle }
  | .drive => { s.offer false false with ph := .drive }
  | .settle => { s.offer false false with ph := .settle }
  | .sample => { s.offer false false with ph := .sample }
  | .decode => { s.capturePorts.offer false false with ph := .decode }
  | .lead => s.atCycle 0
  | .pres => s.atCycle 1
  | .ast => s.atCycle 2
  | .dpad => s.atCycle 3
  | .modep => s.atCycle 4
  | .xyzm => s.atCycle 5
  | .home => s.atCycle 6

/-- A table word placed as the instruction the decoder reads from it; a word that names no operation
leaves the state as it is. -/
def State.placeWord (s : State) (nbits w : Nat) : State :=
  match decodeTableWord nbits w with
  | some i => s.place i
  | none => s

end Sys2Proof.Machine
end

