-- ==== Sys2Proof/Machine/Step.lean ====
section
/-! DEFINITION. One step of the engine: the ports are sampled, an operation is selected, and it runs
(43_session.md R160). -/

namespace Sys2Proof.Machine

open Sys2Proof

/-- One rising edge of `clk` (43_session.md R160). -/
def step (s : State) : Host.Outcome State Fault Refusal :=
  match s.sampleInputs.selectInstr with
  | .ok i => exec i s.sampleInputs
  | .error e => .refused (.reservedCode e)

/-- The state in which the next step runs the instruction the decoder reads from a table word (log 12). -/
def State.withFetchWord (s : State) (nbits w : Nat) : State := s.placeWord nbits w

end Sys2Proof.Machine
end

