-- ==== Sys2Proof/Machine/Notation.lean ====
section
/-! DEFINITION. The trace notation of 30_encoding.md R85: a program is a list of lines, and each line
stands for the port values of some ticks. -/

namespace Sys2Proof.Machine

open Sys2Proof

/-- A line of the notation. The expected result `-> w` is no input and is left to whoever reads the
trace. -/
inductive Line where
  /-- `RESET` -/
  | reset
  /-- `NOP k` -/
  | nop (k : Nat)
  /-- `POLL @t cached` -/
  | cached (t : Time)
  /-- `POLL @t/u [s0 s1 ...]`; `POLL @t [...]` is `u = t`. -/
  | poll (t u : Time) (samples : List Sample)
  deriving DecidableEq, Repr

/-- A line is well formed when `k >= 1`, and when the number of samples is the cycle count that `MODE6`
implies at that point (30_encoding.md R85). -/
def Line.wf (mode6 : Bool) : Line → Bool
  | .reset => true
  | .nop k => decide (1 ≤ k)
  | .cached _ => true
  | .poll _ _ samples => samples.length == ncyc mode6

/-- A tick without a request. -/
def quietTick (now : Time) (lines : Sample) : Inputs :=
  { rst := false, pollReq := false, nowMs := now, lines := lines }

/-- The ticks of one cycle: `DRIVE`, `N_SETTLE` times `SETTLE`, and the `SAMPLE` step that sees `v`. -/
def cycleTicks (nSettle : Nat) (u : Time) (v : Sample) : List Inputs :=
  List.replicate (nSettle + 1) (quietTick u Config.idleLines) ++ [quietTick u v]

/-- The port values a line stands for. `now` is the time of the line before; at ticks where no rule reads
a port, it keeps an idle value (log 20). -/
def Line.inputs (nSettle : Nat) (now : Time) : Line → List Inputs
  | .reset => [{ rst := true, pollReq := false, nowMs := now, lines := Config.idleLines }]
  | .nop k => List.replicate k (quietTick now Config.idleLines)
  | .cached t => [{ rst := false, pollReq := true, nowMs := t, lines := Config.idleLines }]
  | .poll t u samples =>
    { rst := false, pollReq := true, nowMs := t, lines := Config.idleLines } ::
      (samples.flatMap (cycleTicks nSettle u) ++ [quietTick u Config.idleLines])

/-- The time a line leaves behind. -/
def Line.timeAfter (now : Time) : Line → Time
  | .reset => now
  | .nop _ => now
  | .cached t => t
  | .poll _ u _ => u

/-- The port values a program stands for. -/
def programInputs (nSettle : Nat) : Time → List Line → List Inputs
  | _, [] => []
  | now, l :: ls => l.inputs nSettle now ++ programInputs nSettle (l.timeAfter now) ls

/-- A program handed to the engine: the outside has settled these port values for the coming ticks. -/
def State.withProgram (ls : List Line) (s : State) : State :=
  { s with pending := programInputs s.params.nSettle s.inputs.nowMs ls }

end Sys2Proof.Machine
end

