-- ==== Sys2Proof/Machine/Ports.lean ====
section
/-! DEFINITION. The engine's boundary: the output ports (10_state.md R32), the pin space (20_memory.md R50
to R52), the calls of the GPIO adapter that an event stands for (60_exceptions.md R193), and the host's
interrupt mask (60_exceptions.md R186). The ports of a step are functions of the state in which its inputs
have been sampled. -/

namespace Sys2Proof.Machine

open Sys2Proof

/-- `sel` (10_state.md R32). -/
def State.selPort (s : State) : Level := s.sel

/-- `int_mask` (10_state.md R32). -/
def State.intMask (s : State) : Bool := s.im

/-- `busy = (PH != IDLE)` (10_state.md R23). -/
def State.busy (s : State) : Bool := decide (s.ph ≠ .idle)

/-- The word that the step returns, if it returns one: the cached word, or in `DECODE` the new one
(10_state.md R32, 43_session.md R162, R164). A `DECODE` that would fault returns none (log 17). -/
def State.returned (s : State) : Option Word :=
  if s.inputs.rst then none
  else
    match s.ph with
    | .idle => if s.inputs.pollReq && s.rateLimited then some s.word else none
    | .decode =>
      match decodeSamples s.raw s.mode6 with
      | .ok d => some d.w
      | .error _ => none
    | _ => none

/-- `ack`: 1 in a step that emits `Return(w)` (10_state.md R32). -/
def State.ack (s : State) : Bool := s.returned.isSome

/-- `word_out`: `w` in a step that emits `Return(w)`, else `WORD` (10_state.md R32). -/
def State.wordOut (s : State) : Word := s.returned.getD s.word

/-- The host's interrupts are suppressed while `int_mask = 1` or its own mask is set (60_exceptions.md
R186). The host's mask is not the engine's state. -/
def State.interruptsSuppressed (hostMask : Bool) (s : State) : Bool := s.intMask || hostMask

/-- The seven abstract pin identifiers (20_memory.md R51). -/
inductive Pin where
  | select
  | line (i : Fin 6)
  deriving DecidableEq, Repr

/-- The direction of a pin, for its whole life after reset (20_memory.md R51). -/
inductive Direction where
  | input
  | output
  deriving DecidableEq, Repr

/-- The select pin is an output, the line pins are inputs (20_memory.md R51, 70_reset_and_hazards.md R204). -/
def Pin.direction : Pin → Direction
  | .select => .output
  | .line _ => .input

/-- The DB9 pin of an input line (20_memory.md R52). The select line's is not in the source. -/
def lineDb9 (i : Fin 6) : Nat :=
  match i.val with
  | 0 => 1
  | 1 => 2
  | 2 => 3
  | 3 => 4
  | 4 => 6
  | _ => 9

/-- The electrical level of a pin in a step: the select pin carries `SEL`, line `i` is bit `i` of `lines`
(20_memory.md R50, R52). -/
def State.pinLevel (s : State) : Pin → Level
  | .select => s.sel
  | .line i => s.inputs.lines.getLsbD i.val

/-- The calls of the GPIO Port Adapter (60_exceptions.md R193). -/
inductive AdapterCall where
  /-- Boot only (70_reset_and_hazards.md R204): the engine never makes it. -/
  | configureDirection (pin : Pin) (direction : Direction)
  | writeLevel (pin : Pin) (level : Level)
  | toggleLevel (pin : Pin)
  /-- Not used: the engine samples in bulk only (20_memory.md R54). -/
  | readLevel (pin : Pin)
  | readLevels
  | suppressInterrupts
  | restoreInterrupts
  deriving DecidableEq, Repr

/-- The call by which a select line that stands at `level` is brought to `l` (60_exceptions.md R193). With
`SEL_IMPL` explicit it is `writeLevel`, also where `l` is the level already. With `SEL_IMPL` toggle it is
`toggleLevel`, and none where `l` is the level already, so that cycle 0 does not toggle (40_sequencer.md
R105). DESIGN CHOICE: that the realisation follows `SEL_IMPL` throughout, and that a toggle realisation
makes no call at all in cycle 0 (log 24). -/
def selectCall (impl : SelImpl) (level l : Level) : Option AdapterCall :=
  match impl with
  | .explicitLevel => some (.writeLevel .select l)
  | .hardwareToggle => if l = level then none else some (.toggleLevel .select)

/-- The adapter call an event stands for, the select line standing at `level` before it; a `Return` is none
(60_exceptions.md R193). -/
def Event.adapterCall (impl : SelImpl) (level : Level) : Event → Option AdapterCall
  | .maskOn => some .suppressInterrupts
  | .selWrite l => selectCall impl level l
  | .sample _ _ => some .readLevels
  | .maskOff => some .restoreInterrupts
  | .ret _ => none

/-- The level of the select line after an event. -/
def Event.levelAfter (level : Level) : Event → Level
  | .selWrite l => l
  | _ => level

/-- The adapter calls of a list of events with the select line at `level` before it, what the source's mock
adapter counts (60_exceptions.md R196). A `RESET` moves the line without an event, so the list is one
without a `RESET` in it, such as the events of one step or of one poll. -/
def adapterCalls (impl : SelImpl) : Level → List Event → List AdapterCall
  | _, [] => []
  | level, e :: es => (e.adapterCall impl level).toList ++ adapterCalls impl (e.levelAfter level) es

/-- The adapter calls of the step from `s` to `t`: those of the events it has added to the trace. -/
def stepCalls (s t : State) : List AdapterCall :=
  adapterCalls s.params.selImpl s.sel (t.trace.drop s.trace.length)

/-- The level of the select pin after a call on a pin that stands at `level`: `writeLevel` sets it and
`toggleLevel` inverts it (60_exceptions.md R193). -/
def AdapterCall.selectLevel (level : Level) : AdapterCall → Level
  | .writeLevel .select l => l
  | .toggleLevel .select => !level
  | _ => level

/-- The level of the select pin after some calls. -/
def selectLevelAfter (level : Level) (calls : List AdapterCall) : Level :=
  calls.foldl AdapterCall.selectLevel level

end Sys2Proof.Machine
end

