-- ==== Sys2Proof/Machine/Summary.lean ====
section
/-! DEFINITION. A `POLL` as the host sees it: the atomic summary of 43_session.md R168, the trace of
40_sequencer.md R114, the duration of 40_sequencer.md R113, and the three outcomes that 30_encoding.md R86
names as pseudo-operations. -/

namespace Sys2Proof.Machine

open Sys2Proof

/-- The pseudo-operations `POLL.C`, `POLL.3`, `POLL.6` (30_encoding.md R86). -/
inductive PollKind where
  | cached
  | threeButton
  | sixButton
  deriving DecidableEq, Repr

/-- Which of the three a `POLL` at time `t0` is (30_encoding.md R86, 43_session.md R161). -/
def State.pollKind (t0 : Time) (s : State) : PollKind :=
  if (t0 - s.lastT).toNat < s.params.tMin then .cached
  else if s.mode6 then .sixButton
  else .threeButton

/-- The cycles a poll runs, in order (40_sequencer.md R103). -/
def pollCycles (mode6 : Bool) : List Cycle :=
  if mode6 then [0, 1, 2, 3, 4, 5, 6] else [0, 1, 2, 3, 4]

/-- The events of the given cycles (40_sequencer.md R114). -/
def cycleEvents (samples : Vector Sample 7) : List Cycle → List Event
  | [] => []
  | c :: cs => .selWrite (selLevel c) :: .sample c samples[c] :: cycleEvents samples cs

/-- The trace of a poll that is not answered from the cache (40_sequencer.md R114). -/
def pollTrace (mode6 : Bool) (samples : Vector Sample 7) (w : Word) : List Event :=
  .maskOn :: (cycleEvents samples (pollCycles mode6) ++ [.maskOff, .ret w])

/-- `RAW[c] <- L(c)` for the given cycles (43_session.md R168). -/
def RawBuffer.fill (samples : Vector Sample 7) : List Cycle → RawBuffer → RawBuffer
  | [], raw => raw
  | c :: cs, raw => RawBuffer.fill samples cs (raw.write c samples[c])

/-- The ticks from the one that sees `poll_req` to the one that raises `ack`, inclusive (40_sequencer.md
R113). -/
def pollTicks (p : Params) (mode6 : Bool) : Nat := 2 + ncyc mode6 * (p.nSettle + 2)

/-- How many ticks after the one that sees `poll_req` the `SAMPLE` step of cycle `c` comes. -/
def sampleTick (p : Params) (c : Cycle) : Nat := c.val * (p.nSettle + 2) + (p.nSettle + 2)

/-- `POLL(t0, t1, L)`, issued in `IDLE`: what the host sees of it (43_session.md R168). The fault of
10_state.md R39 cannot arise here, since the poll has written what its decode reads
(`State.pollSummary_completes`). That `RAW` keeps the samples is log 23. -/
def State.pollSummary (t0 t1 : Time) (samples : Vector Sample 7) (s : State) : Result :=
  if (t0 - s.lastT).toNat < s.params.tMin then .next (s.emit (.ret s.word))
  else
    afterRead (decodeSamples (RawBuffer.fill samples (pollCycles s.mode6) s.raw) s.mode6) fun d =>
      { s with
        raw := RawBuffer.fill samples (pollCycles s.mode6) s.raw
        word := d.w
        mode6 := d.mNew
        lastT := t1
        sel := Config.selIdle
        im := false
        ph := .idle
        cyc := if s.mode6 then 6 else 4
        sc := SettleCounter.zero s.params.scWidth
        trace := s.trace ++ pollTrace s.mode6 samples d.w }

end Sys2Proof.Machine
end

