-- ==== Sys2Proof/Machine/Timing.lean ====
section
/-! DEFINITION. The timing figures in seconds (70_reset_and_hazards.md R206, R207, R215, R216), from the
ticks and `F_CLK`. No step reads them (00_scope.md R10). -/

namespace Sys2Proof.Machine

open Sys2Proof

/-- The time of a number of ticks, in seconds: ticks over `F_CLK` (00_scope.md R10). With `F_CLK = 0`, which
is no frequency, it means nothing (log 21). -/
def ticksToSeconds (p : Params) (ticks : Nat) : Rat := (ticks : Rat) / (p.fClk : Rat)

/-- The ticks from a select write to the sample of the same cycle (70_reset_and_hazards.md R216). -/
def settleTicks (p : Params) : Nat := p.nSettle + 1

/-- The ticks for which a poll holds `int_mask` high (70_reset_and_hazards.md R216). -/
def maskTicks (p : Params) (mode6 : Bool) : Nat := ncyc mode6 * (p.nSettle + 2)

/-- The settle time `(N_SETTLE + 1) / F_CLK` (00_scope.md R10, 70_reset_and_hazards.md R206). -/
def settleTime (p : Params) : Rat := ticksToSeconds p (settleTicks p)

/-- The time of all cycles of a poll, what 70_reset_and_hazards.md R207 bounds by the controller's window. -/
def sequenceTime (p : Params) (mode6 : Bool) : Rat := ticksToSeconds p (maskTicks p mode6)

/-- The time of a whole poll (70_reset_and_hazards.md R216). -/
def pollTime (p : Params) (mode6 : Bool) : Rat := ticksToSeconds p (pollTicks p mode6)

end Sys2Proof.Machine
end

