-- ==== Sys2Proof/Safety.lean ====
section
/-! DEFINITION. The invariants of the state (10_state.md R35), and what strengthens them to an invariant
that every step keeps. -/

namespace Sys2Proof.Machine

open Sys2Proof

/-- Items 1 to 4 of 10_state.md R35: what holds of every decoded state word. -/
abbrev WordOk (w : Word) : Prop :=
  (getField w .present = false → w = 0x0000#16) ∧
  ¬(getField w .up = true ∧ getField w .down = true) ∧
  ¬(getField w .left = true ∧ getField w .right = true) ∧
  (getField w .mode6 = false →
    getField w .x = false ∧ getField w .y = false ∧ getField w .z = false ∧
    getField w .mode = false ∧ getField w .home = false) ∧
  w.getLsbD 15 = false

/-- Items 5 and 6: the Session Mode Flag and the word agree. -/
abbrev State.FlagOk (s : State) : Prop :=
  getField s.word .mode6 = s.mode6 ∧ (getField s.word .present = false → s.mode6 = false)

/-- Item 7 with the whole bracket of 40_sequencer.md R112: `IM = 1` exactly in `DRIVE`, `SETTLE`,
`SAMPLE`. -/
abbrev State.MaskOk (s : State) : Prop :=
  s.im = true ↔ (s.ph = .drive ∨ s.ph = .settle ∨ s.ph = .sample)

/-- The cycle index of a poll in progress is one of its cycles, and in `DECODE` its last (10_state.md R25,
40_sequencer.md R109). -/
abbrev State.CycleOk (s : State) : Prop :=
  (s.ph ≠ .idle → s.cyc.val < ncyc s.mode6) ∧ (s.ph = .decode → s.cyc.val = ncyc s.mode6 - 1)

/-- The poll in progress has written the entries of the cycles it has sampled (10_state.md R27). -/
abbrev State.SamplesOk (s : State) : Prop :=
  ∀ c : Cycle,
    ((s.ph = .drive ∨ s.ph = .settle ∨ s.ph = .sample) → c.val < s.cyc.val → (s.raw.entry c).isSome = true) ∧
    (s.ph = .decode → c.val ≤ s.cyc.val → (s.raw.entry c).isSome = true)

/-- The select line: high in `IDLE` and `DECODE` and before cycle 0, the level of the cycle before a later
`DRIVE`, the cycle's own level after it (40_sequencer.md R104). -/
abbrev State.SelectOk (s : State) : Prop :=
  (s.ph = .idle ∨ s.ph = .decode → s.sel = true) ∧
  (s.ph = .drive → s.sel = (decide (s.cyc = 0) || !selLevel s.cyc)) ∧
  (s.ph = .settle ∨ s.ph = .sample → s.sel = selLevel s.cyc)

/-- The settle counter: of width `W_SC`, between 1 and `N_SETTLE` in `SETTLE`, 0 elsewhere (10_state.md
R26, 40_sequencer.md R107; log 7). -/
abbrev State.SettleOk (s : State) : Prop :=
  s.sc.width = s.params.scWidth ∧
  (s.ph = .settle → 1 ≤ s.sc.count ∧ s.sc.count ≤ s.params.nSettle) ∧
  (s.ph ≠ .settle → s.sc.count = 0)

/-- The invariant of the engine. -/
structure State.Inv (s : State) : Prop where
  word : WordOk s.word
  flag : s.FlagOk
  mask : s.MaskOk
  cycle : s.CycleOk
  samples : s.SamplesOk
  select : s.SelectOk
  settle : s.SettleOk
  params : s.params.wf

/-- A result that is a next state: nothing faults and nothing is refused (60_exceptions.md R180: every
operation completes normally). -/
def Completes (r : Result) : Prop := ∃ t, r = .next t

/-- `n` ticks of the machine, stopping at the first fault or refusal (the runs of `Sys2Proof.core`). -/
def run : Nat → State → Result
  | 0, s => .next s
  | n + 1, s =>
    match step s with
    | .next t => run n t
    | .fault r => .fault r
    | .refused r => .refused r

/-- A result with its next state changed. Two runs that may differ in one field only are compared by it. -/
def onNext (f : State → State) (r : Result) : Result :=
  match r with
  | .next t => .next (f t)
  | .fault e => .fault e
  | .refused e => .refused e

/-- The state seen with other parameters. -/
def State.setParams (p : Params) (s : State) : State := { s with params := p }

/-- The state seen with other sampled inputs. -/
def State.setInputs (i : Inputs) (s : State) : State := { s with inputs := i }

/-- The lines of a cycle that the decoder tests, as a mask of its sample; the others are ignored
(30_encoding.md R79). -/
def testedLines (c : Cycle) : Sample :=
  match c.val with
  | 1 => 0b001100#6
  | 2 => 0b110000#6
  | 3 => 0b111111#6
  | 4 => 0b000011#6
  | 5 => 0b001111#6
  | 6 => 0b000001#6
  | _ => 0b000000#6

/-- Two sample buffers that a decoder which ignores the unnamed lines cannot tell apart: cycle 0 may differ
at will, and each other entry is written in both or in neither and carries the same tested lines. -/
def sameTestedLines (raw raw' : RawBuffer) : Prop :=
  ∀ c : Cycle, c ≠ 0 → (raw'.entry c).map (· &&& testedLines c) = (raw.entry c).map (· &&& testedLines c)

/-- Line `i` of a sample is active: electrically low (00_scope.md R13). -/
def lineLow (v : Sample) (i : Nat) : Bool := !v.getLsbD i

/-- The cycle operations with their indices (30_encoding.md R74). -/
def cycleOperations : List (Instr × Cycle) :=
  [(.lead, 0), (.pres, 1), (.ast, 2), (.dpad, 3), (.modep, 4), (.xyzm, 5), (.home, 6)]

end Sys2Proof.Machine
end

