-- ==== Sys2Proof/Certificates/Slice0/Obligations.lean ====
section
/-! DEFINITION. The statements for the provers, in the order of OBLIGATIONS.json: the codes, the step, the
reset, the host operations, the phases, the cycle operations, the decoder, the invariant and the rules of
the whole machine, runs of many ticks, the parameters, the
adapter calls. A statement whose conclusion is an equation `exec i s = .next t` gives the operation's completion, its result and its frame at once. -/

open Sys2Proof Sys2Proof.Machine

/-! ### Codes -/

/-- 30_encoding.md R72, whole: the five phase codes and the three reserved ones. -/
def Obligations.PhaseCodesReadAsSpecified : Prop :=
  decode ⟨.phase, 0b000#8⟩ = .ok .idle ∧ decode ⟨.phase, 0b001#8⟩ = .ok .drive ∧
  decode ⟨.phase, 0b010#8⟩ = .ok .settle ∧ decode ⟨.phase, 0b011#8⟩ = .ok .sample ∧
  decode ⟨.phase, 0b100#8⟩ = .ok .decode ∧
  decode ⟨.phase, 0b101#8⟩ = .error (.reservedPhase 5) ∧
  decode ⟨.phase, 0b110#8⟩ = .error (.reservedPhase 6) ∧
  decode ⟨.phase, 0b111#8⟩ = .error (.reservedPhase 7)

/-- 30_encoding.md R71, R74, R81: the host codes and the cycle codes. -/
def Obligations.HostAndCycleCodesReadAsSpecified : Prop :=
  decode ⟨.host, 0b10#8⟩ = .ok .reset ∧ decode ⟨.host, 0b11#8⟩ = .ok .reset ∧
  decode ⟨.host, 0b01#8⟩ = .ok .poll ∧ decode ⟨.host, 0b00#8⟩ = .ok .nop ∧
  decode ⟨.cyc, 0b000#8⟩ = .ok .lead ∧ decode ⟨.cyc, 0b001#8⟩ = .ok .pres ∧
  decode ⟨.cyc, 0b010#8⟩ = .ok .ast ∧ decode ⟨.cyc, 0b011#8⟩ = .ok .dpad ∧
  decode ⟨.cyc, 0b100#8⟩ = .ok .modep ∧ decode ⟨.cyc, 0b101#8⟩ = .ok .xyzm ∧
  decode ⟨.cyc, 0b110#8⟩ = .ok .home ∧ decode ⟨.cyc, 0b111#8⟩ = .error (.reservedCycle 7)

/-- 30_encoding.md R70 to R74: on all bytes of all three formats, a code names an operation exactly when
it is one of that operation's codes. It contains that decoding an encoded operation gives it back. -/
def Obligations.DecodeAcceptsExactlyTheCodesOf : Prop :=
  ∀ (c : Code) (i : Instr), decode c = .ok i ↔ c ∈ codesOf i

/-- 30_encoding.md R81, R82: the codes that name an operation are exactly the well-formed ones. -/
def Obligations.IllFormedCodesAreRefused : Prop :=
  ∀ c : Code, (∃ i, decode c = .ok i) ↔ c.wf = true

/-! ### The step -/

/-- 43_session.md R160, in the model's names (log 1, log 10): the ports are sampled, and the selected
operation runs on the state in which they are. -/
def Obligations.StepRunsTheSelectedInstruction : Prop :=
  ∀ (s : State) (i : Instr),
    s.sampleInputs =
      { s with inputs := s.inputAt 0, pending := s.pending.tail, ticks := s.ticks + 1 } ∧
    (s.sampleInputs.selectInstr = .ok i → step s = exec i s.sampleInputs)

/-- 43_session.md R160, the table of priorities, case by case and complete. -/
def Obligations.StepIsSelectedByPriority : Prop :=
  ∀ s : State,
    ((s.inputAt 0).rst = true → step s = exec .reset s.sampleInputs) ∧
    ((s.inputAt 0).rst = false →
      (s.ph = .idle → (s.inputAt 0).pollReq = true → step s = exec .poll s.sampleInputs) ∧
      (s.ph = .idle → (s.inputAt 0).pollReq = false → step s = exec .nop s.sampleInputs) ∧
      (s.ph = .idle → step s = exec .idle s.sampleInputs) ∧
      (s.ph = .drive → step s = exec .drive s.sampleInputs) ∧
      (s.ph = .settle → step s = exec .settle s.sampleInputs) ∧
      (s.ph = .sample → step s = exec .sample s.sampleInputs) ∧
      (s.ph = .decode → step s = exec .decode s.sampleInputs))

/-- 30_encoding.md R70, 40_sequencer.md R110, R111: while the sequencer is active, the step is that of the
cycle operation whose code `CYC` holds. -/
def Obligations.SequencerStepIsTheCycleOperation : Prop :=
  ∀ (s : State) (i : Instr), (s.inputAt 0).rst = false →
    (s.ph = .drive ∨ s.ph = .settle ∨ s.ph = .sample) →
    decode (cycleCode s.cyc) = .ok i → step s = exec i s.sampleInputs

/-- The model's own placing of a table word (log 12): the next step runs what the decoder reads from it. -/
def Obligations.PlacedWordRunsNext : Prop :=
  ∀ (s : State) (nbits w : Nat) (i : Instr), decodeTableWord nbits w = some i →
    step (s.withFetchWord nbits w) = exec i (s.withFetchWord nbits w).sampleInputs

/-! ### Reset -/

/-- 10_state.md R37: the reset value of every state element that has one; of `RAW`, unspecified there,
`ResetWritesEveryElement` speaks. -/
def Obligations.ResetStateHoldsTheSpecValues : Prop :=
  State.reset.sel = true ∧ State.reset.im = false ∧ State.reset.ph = .idle ∧ State.reset.cyc = 0 ∧
  State.reset.sc.count = 0 ∧ State.reset.word = 0x0000#16 ∧
  State.reset.mode6 = false ∧ State.reset.lastT = 0#32

/-- 70_reset_and_hazards.md R200: `RESET` from every state, the whole next state. Each entry of `RAW` holds
the free value of its cycle (log 25), and none can be read (10_state.md R39; log 5). -/
def Obligations.ResetWritesEveryElement : Prop :=
  (∀ c : Cycle, RawBuffer.unspecified.values[c] = Config.freeRaw c ∧ RawBuffer.unspecified.entry c = none) ∧
  ∀ s : State,
    exec .reset s =
      .next { s with
        sel := true, im := false, ph := .idle, cyc := 0,
        sc := SettleCounter.zero s.params.scWidth, raw := RawBuffer.unspecified,
        word := 0x0000#16, mode6 := false, lastT := 0#32 }

/-- 70_reset_and_hazards.md R201, R202 and 43_session.md R160: a tick with `rst = 1` in the middle of
anything, whatever `poll_req` is, leaves the reset values, emits nothing and raises no `ack`. -/
def Obligations.ResetDiscardsAPollInProgress : Prop :=
  ∀ s : State, (s.inputAt 0).rst = true →
    s.sampleInputs.ack = false ∧
    ∃ t, step s = .next t ∧
      t.sel = true ∧ t.im = false ∧ t.ph = .idle ∧ t.cyc = 0 ∧ t.sc.count = 0 ∧
      t.word = 0x0000#16 ∧ t.mode6 = false ∧ t.lastT = 0#32 ∧
      t.trace = s.trace ∧ t.params = s.params

/-! ### The host operations -/

/-- 43_session.md R161, R162, R163: `POLL` in `IDLE`, with the elapsed time as the integer remainder that
R161 writes. -/
def Obligations.PollIsCachedOrAccepted : Prop :=
  ∀ s : State, s.ph = .idle →
    exec .poll s =
      if (s.inputs.nowMs.toNat + 2 ^ 32 - s.lastT.toNat) % 2 ^ 32 < s.params.tMin then
        .next { s with trace := s.trace ++ [.ret s.word] }
      else
        .next { s with im := true, cyc := 0, ph := .drive, trace := s.trace ++ [.maskOn] }

/-- 43_session.md R162: a cached return writes no state element, and its step shows `ack = 1` and the
cached word. -/
def Obligations.CachedReturnAnswersWithTheWord : Prop :=
  ∀ s : State, s.ph = .idle → s.inputs.rst = false → s.inputs.pollReq = true →
    (s.inputs.nowMs - s.lastT).toNat < s.params.tMin →
    exec .poll s = .next { s with trace := s.trace ++ [.ret s.word] } ∧
    s.ack = true ∧ s.wordOut = s.word

/-- 43_session.md R166: while busy, a step with `poll_req` changed does the same, the sampled port apart. -/
def Obligations.PollRequestWhileBusyIsIgnored : Prop :=
  ∀ (s : State) (i : Inputs) (rest : List Inputs) (b : Bool),
    s.ph ≠ .idle → i.rst = false →
    step { s with pending := { i with pollReq := b } :: rest } =
      onNext (State.setInputs { i with pollReq := b }) (step { s with pending := i :: rest })

/-- 43_session.md R165, R166: `NOP` and `POLL` in each phase. In `IDLE` a `NOP` writes nothing,
raises no `ack` and shows the word; while busy both are the phase's own step. -/
def Obligations.NopIsThePhasesOwnStep : Prop :=
  ∀ s : State,
    (s.ph = .idle → exec .nop s = .next s ∧
      (s.inputs.rst = false → s.inputs.pollReq = false → s.ack = false ∧ s.wordOut = s.word)) ∧
    (s.ph = .drive → exec .nop s = exec .drive s ∧ exec .poll s = exec .drive s) ∧
    (s.ph = .settle → exec .nop s = exec .settle s ∧ exec .poll s = exec .settle s) ∧
    (s.ph = .sample → exec .nop s = exec .sample s ∧ exec .poll s = exec .sample s) ∧
    (s.ph = .decode → exec .nop s = exec .decode s ∧ exec .poll s = exec .decode s)

/-- 43_session.md R160: phase `IDLE` polls on a request and does nothing without one. -/
def Obligations.IdleAnswersOrWaits : Prop :=
  ∀ s : State,
    exec .idle s =
      .next
        (if s.inputs.pollReq = false then s
         else if (s.inputs.nowMs.toNat + 2 ^ 32 - s.lastT.toNat) % 2 ^ 32 < s.params.tMin then
           { s with trace := s.trace ++ [.ret s.word] }
         else { s with im := true, cyc := 0, ph := .drive, trace := s.trace ++ [.maskOn] })

/-! ### The phases -/

/-- 40_sequencer.md R106, with the level by the parity of the cycle (30_encoding.md R75). -/
def Obligations.DriveSetsTheSelectLevel : Prop :=
  ∀ s : State,
    exec .drive s =
      .next { s with
        sel := decide (s.cyc.val % 2 = 0), sc := SettleCounter.load s.params, ph := .settle,
        trace := s.trace ++ [.selWrite (decide (s.cyc.val % 2 = 0))] } ∧
    (SettleCounter.load s.params).count = s.params.nSettle

/-- 40_sequencer.md R107, one tick. -/
def Obligations.SettleCountsDown : Prop :=
  ∀ s : State,
    exec .settle s =
      .next
        (if s.sc.count > 1 then { s with sc := s.sc.dec }
         else { s with sc := SettleCounter.zero s.sc.width, ph := .sample }) ∧
    (s.sc.count > 1 → s.sc.dec.count = s.sc.count - 1 ∧ s.sc.dec.width = s.sc.width) ∧
    (SettleCounter.zero s.sc.width).count = 0

/-- 40_sequencer.md R107: from a `DRIVE` step, `k` ticks later for `1 <= k <= N_SETTLE` the phase is
`SETTLE` with `SC = N_SETTLE + 1 - k`, and after `N_SETTLE + 1` ticks it is `SAMPLE`; nothing but the
select line and the counter has changed. -/
def Obligations.SettleLastsExactlyNSettleTicks : Prop :=
  ∀ s : State, s.ph = .drive → 1 ≤ s.params.nSettle →
    (∀ j, j ≤ s.params.nSettle → (s.inputAt j).rst = false) →
    (∀ k, 1 ≤ k → k ≤ s.params.nSettle →
      ∃ t, run k s = .next t ∧ t.ph = .settle ∧ t.sc.count = s.params.nSettle + 1 - k ∧
        t.sc.width = s.params.scWidth ∧ t.sel = decide (s.cyc.val % 2 = 0)) ∧
    ∃ t, run (s.params.nSettle + 1) s = .next t ∧ t.ph = .sample ∧ t.sc.count = 0 ∧
      t.sel = decide (s.cyc.val % 2 = 0) ∧ t.im = s.im ∧ t.cyc = s.cyc ∧ t.raw = s.raw ∧
      t.word = s.word ∧ t.mode6 = s.mode6 ∧ t.lastT = s.lastT ∧
      t.trace = s.trace ++ [.selWrite (decide (s.cyc.val % 2 = 0))]

/-- 40_sequencer.md R108, R109: capture and finish, and capture and advance wherever the next index exists
(20_memory.md R53). The entry is from then on one that a `SAMPLE` step has written (10_state.md R39). -/
def Obligations.SampleCapturesThenAdvancesOrFinishes : Prop :=
  ∀ s : State,
    (s.cyc.val + 1 = (if s.mode6 then 7 else 5) →
      exec .sample s =
        .next { s with
          raw := {
            values := s.raw.values.set s.cyc.val s.inputs.lines s.cyc.isLt
            written := s.raw.written.set s.cyc.val true s.cyc.isLt },
          im := false, ph := .decode,
          trace := s.trace ++ [.sample s.cyc s.inputs.lines, .maskOff] }) ∧
    (s.cyc.val + 1 ≠ (if s.mode6 then 7 else 5) →
      ∀ h : s.cyc.val + 1 < 7,
        exec .sample s =
          .next { s with
            raw := {
              values := s.raw.values.set s.cyc.val s.inputs.lines s.cyc.isLt
              written := s.raw.written.set s.cyc.val true s.cyc.isLt },
            cyc := ⟨s.cyc.val + 1, h⟩, ph := .drive,
            trace := s.trace ++ [.sample s.cyc s.inputs.lines] })

/-- 20_memory.md R53, 30_encoding.md R81 and the model's choice (log 6): the increment that would form index
7 is refused, in `SAMPLE` and in the sequencer half of `HOME`, and where the invariant holds no `SAMPLE`
step is at such an index. -/
def Obligations.IndexSevenIsRefused : Prop :=
  ∀ s : State,
    (s.cyc.val = 6 → s.mode6 = false → exec .sample s = .refused .cycleSeven) ∧
    (s.ph = .sample → s.mode6 = false → exec .home s = .refused .cycleSeven) ∧
    (s.Inv → s.ph = .sample → s.cyc.val = 6 → s.mode6 = true)

/-! ### The cycle operations -/

/-- 40_sequencer.md R110, R111: `LEAD`, `PRES`, `AST`, `DPAD`, `MODEP`, `XYZM`, `HOME` in phase `DRIVE`,
each with its own level, and in phase `SETTLE`. -/
def Obligations.CycleOperationsDriveAndSettle : Prop :=
  ∀ p ∈ cycleOperations, ∀ s : State,
    (s.ph = .drive →
      exec p.1 s =
        .next { s with
          sel := decide (p.2.val % 2 = 0), sc := SettleCounter.load s.params, ph := .settle,
          trace := s.trace ++ [.selWrite (decide (p.2.val % 2 = 0))] }) ∧
    (s.ph = .settle →
      exec p.1 s =
        .next
          (if s.sc.count > 1 then { s with sc := s.sc.dec }
           else { s with sc := SettleCounter.zero s.sc.width, ph := .sample }))

/-- 40_sequencer.md R108 to R111: the same seven in phase `SAMPLE`, each capturing its own entry.
For `HOME` with `MODE6 = 0` see `IndexSevenIsRefused`. -/
def Obligations.CycleOperationsCaptureTheirEntry : Prop :=
  ∀ p ∈ cycleOperations, ∀ s : State, s.ph = .sample →
    (p.2.val + 1 = (if s.mode6 then 7 else 5) →
      exec p.1 s =
        .next { s with
          raw := {
            values := s.raw.values.set p.2.val s.inputs.lines p.2.isLt
            written := s.raw.written.set p.2.val true p.2.isLt },
          im := false, ph := .decode,
          trace := s.trace ++ [.sample p.2 s.inputs.lines, .maskOff] }) ∧
    (p.2.val + 1 ≠ (if s.mode6 then 7 else 5) →
      ∀ h : p.2.val + 1 < 7,
        exec p.1 s =
          .next { s with
            raw := {
              values := s.raw.values.set p.2.val s.inputs.lines p.2.isLt
              written := s.raw.written.set p.2.val true p.2.isLt },
            cyc := ⟨p.2.val + 1, h⟩, ph := .drive,
            trace := s.trace ++ [.sample p.2 s.inputs.lines] })

/-- The model's choice (log 9): in `IDLE` no cycle is in progress and each cycle operation is the phase's
own step. `LEAD` decodes nothing (40_sequencer.md R110). -/
def Obligations.CycleOperationsOutsideACycle : Prop :=
  (∀ p ∈ cycleOperations, ∀ s : State, s.ph = .idle → exec p.1 s = exec .idle s) ∧
  ∀ s : State, s.ph = .decode → exec .lead s = .next s

/-- 41_decoder.md R123, as a step of its own (log 9): the word starts as `PRESENT` alone. -/
def Obligations.PresStartsTheWord : Prop :=
  ∀ (s : State) (v : Sample), s.ph = .decode → s.raw.entry 1 = some v →
    exec .pres s =
      .next { s with word := if lineLow v 2 && lineLow v 3 then 0x0001#16 else 0x0000#16 }

/-- 41_decoder.md R124, as a step of its own (log 9). -/
def Obligations.AstWritesAAndStart : Prop :=
  ∀ s : State, s.ph = .decode →
    (getField s.word .present = false → exec .ast s = .next s) ∧
    ∀ v : Sample, getField s.word .present = true → s.raw.entry 2 = some v →
      ∃ w : Word, exec .ast s = .next { s with word := w } ∧
        getField w .a = lineLow v 4 ∧ getField w .start = lineLow v 5 ∧
        ∀ k, k ≠ 6 → k ≠ 12 → w.getLsbD k = s.word.getLsbD k

/-- 41_decoder.md R125, as a step of its own (log 9): the values before the constraint enforcer. -/
def Obligations.DpadWritesSixButtons : Prop :=
  ∀ s : State, s.ph = .decode →
    (getField s.word .present = false → exec .dpad s = .next s) ∧
    ∀ v : Sample, getField s.word .present = true → s.raw.entry 3 = some v →
      ∃ w : Word, exec .dpad s = .next { s with word := w } ∧
        getField w .up = lineLow v 0 ∧ getField w .down = lineLow v 1 ∧
        getField w .left = lineLow v 2 ∧ getField w .right = lineLow v 3 ∧
        getField w .b = lineLow v 4 ∧ getField w .c = lineLow v 5 ∧
        ∀ k, k < 2 ∨ k = 6 ∨ 8 < k → w.getLsbD k = s.word.getLsbD k

/-- 42_mode_detector.md R145, as a step of its own (log 9); `MODE6` itself is written by the `DECODE` step
(R147). -/
def Obligations.ModepWritesTheProbe : Prop :=
  ∀ s : State, s.ph = .decode →
    (getField s.word .present = false → exec .modep s = .next s) ∧
    ∀ v : Sample, getField s.word .present = true → s.raw.entry 4 = some v →
      ∃ w : Word, exec .modep s = .next { s with word := w } ∧
        getField w .mode6 = (lineLow v 0 && lineLow v 1) ∧
        ∀ k, k ≠ 1 → w.getLsbD k = s.word.getLsbD k

/-- 41_decoder.md R126, R128, as a step of its own (log 9). -/
def Obligations.XyzmWritesFourButtons : Prop :=
  ∀ s : State, s.ph = .decode →
    ((getField s.word .present && s.mode6 && getField s.word .mode6) = false →
      exec .xyzm s = .next s) ∧
    ∀ v : Sample, (getField s.word .present && s.mode6 && getField s.word .mode6) = true →
      s.raw.entry 5 = some v →
      ∃ w : Word, exec .xyzm s = .next { s with word := w } ∧
        getField w .z = lineLow v 0 ∧ getField w .y = lineLow v 1 ∧
        getField w .x = lineLow v 2 ∧ getField w .mode = lineLow v 3 ∧
        ∀ k, k < 9 ∨ k = 12 ∨ 13 < k → w.getLsbD k = s.word.getLsbD k

/-- 41_decoder.md R127, R128, as a step of its own (log 9). -/
def Obligations.HomeWritesHome : Prop :=
  ∀ s : State, s.ph = .decode →
    ((getField s.word .present && s.mode6 && getField s.word .mode6) = false →
      exec .home s = .next s) ∧
    ∀ v : Sample, (getField s.word .present && s.mode6 && getField s.word .mode6) = true →
      s.raw.entry 6 = some v →
      ∃ w : Word, exec .home s = .next { s with word := w } ∧
        getField w .home = lineLow v 0 ∧
        ∀ k, k ≠ 14 → w.getLsbD k = s.word.getLsbD k

/-! ### The decoder and the completion of a poll -/

/-- 43_session.md R164: the triple and the phase are written in one step, which returns the new word. That
`RAW` keeps its entries is the model's choice (log 23). -/
def Obligations.DecodeStepPublishesTheResult : Prop :=
  ∀ (s : State) (d : Decoded), decodeSamples s.raw s.mode6 = .ok d →
    exec .decode s =
      .next { s with
        word := d.w, mode6 := d.mNew, lastT := s.inputs.nowMs, ph := .idle,
        trace := s.trace ++ [.ret d.w] } ∧
    (s.ph = .decode → s.inputs.rst = false → s.ack = true ∧ s.wordOut = d.w)

/-- 41_decoder.md R135, the closed form, on the state after the `DECODE` step: bit by bit for every sample
of a poll and both beliefs, together with R164's other writes. That `RAW` keeps its
entries is the model's choice (log 23). -/
def Obligations.DecodeStepMeetsTheClosedForm : Prop :=
  ∀ (s : State) (v : Cycle → Sample),
    (∀ c : Cycle, 1 ≤ c.val → c.val < (if s.mode6 then 7 else 5) → s.raw.entry c = some (v c)) →
    let p := lineLow (v 1) 2 && lineLow (v 1) 3
    let m := lineLow (v 4) 0 && lineLow (v 4) 1
    let e := s.mode6 && m
    ∃ t, exec .decode s = .next t ∧
      t = { s with
        word := t.word, mode6 := p && m, lastT := s.inputs.nowMs, ph := .idle,
        trace := s.trace ++ [.ret t.word] } ∧
      getField t.word .present = p ∧
      getField t.word .mode6 = (p && m) ∧
      getField t.word .up = (p && lineLow (v 3) 0 && !lineLow (v 3) 1) ∧
      getField t.word .down = (p && lineLow (v 3) 1 && !lineLow (v 3) 0) ∧
      getField t.word .left = (p && lineLow (v 3) 2 && !lineLow (v 3) 3) ∧
      getField t.word .right = (p && lineLow (v 3) 3 && !lineLow (v 3) 2) ∧
      getField t.word .a = (p && lineLow (v 2) 4) ∧
      getField t.word .b = (p && lineLow (v 3) 4) ∧
      getField t.word .c = (p && lineLow (v 3) 5) ∧
      getField t.word .x = (p && e && lineLow (v 5) 2) ∧
      getField t.word .y = (p && e && lineLow (v 5) 1) ∧
      getField t.word .z = (p && e && lineLow (v 5) 0) ∧
      getField t.word .start = (p && lineLow (v 2) 5) ∧
      getField t.word .mode = (p && e && lineLow (v 5) 3) ∧
      getField t.word .home = (p && e && lineLow (v 6) 0) ∧
      t.word.getLsbD 15 = false

/-- 41_decoder.md R136: the three testable properties of every decoded word, garbage included, with the
two facts about `m_new`. -/
def Obligations.DecodedWordsMeetTheProperties : Prop :=
  ∀ (raw : RawBuffer) (mIn : Bool) (d : Decoded), decodeSamples raw mIn = .ok d →
    WordOk d.w ∧ getField d.w .mode6 = d.mNew ∧ (getField d.w .present = false → d.mNew = false)

/-- 41_decoder.md R129: without presence the step writes the zero word and
three-button mode, whatever the other entries hold, written or not. That `RAW` keeps its
entries is the model's choice (log 23). -/
def Obligations.AbsenceShortCircuitsTheDecode : Prop :=
  ∀ (s : State) (v : Sample), s.raw.entry 1 = some v → (lineLow v 2 && lineLow v 3) = false →
    exec .decode s =
      .next { s with
        word := 0x0000#16, mode6 := false, lastT := s.inputs.nowMs, ph := .idle,
        trace := s.trace ++ [.ret 0x0000#16] }

/-- 41_decoder.md R130, bit by bit: an axis with both bits set loses both, the axes are independent, and
no other bit changes. -/
def Obligations.OppositeDirectionsAreCleared : Prop :=
  ∀ w : Word,
    getField (clearOpposites w) .up = (getField w .up && !getField w .down) ∧
    getField (clearOpposites w) .down = (getField w .down && !getField w .up) ∧
    getField (clearOpposites w) .left = (getField w .left && !getField w .right) ∧
    getField (clearOpposites w) .right = (getField w .right && !getField w .left) ∧
    ∀ k, k < 2 ∨ 5 < k → (clearOpposites w).getLsbD k = w.getLsbD k

/-- 41_decoder.md R133: the enforcer is the three steps in the order R130, R131, R132, every other order
gives the same word, and cycles 2 and 3 may be processed in either order. -/
def Obligations.EnforcerOrderIsImmaterial : Prop :=
  (∀ w : Word,
    enforce w = clearAbsent (clearExclusive (clearOpposites w)) ∧
    clearExclusive (clearAbsent (clearOpposites w)) = enforce w ∧
    clearAbsent (clearOpposites (clearExclusive w)) = enforce w ∧
    clearOpposites (clearAbsent (clearExclusive w)) = enforce w ∧
    clearExclusive (clearOpposites (clearAbsent w)) = enforce w ∧
    clearOpposites (clearExclusive (clearAbsent w)) = enforce w) ∧
  ∀ (raw : RawBuffer) (d : Decoded) (v2 v3 : Sample),
    raw.entry 2 = some v2 → raw.entry 3 = some v3 →
    ∃ d', (muxAst raw d >>= muxDpad raw) = .ok d' ∧ (muxDpad raw d >>= muxAst raw) = .ok d'

/-- 30_encoding.md R79: two buffers that differ only in lines the table does not name, and in cycle 0 at
will, give the same `DECODE` step, `RAW` apart; so do two that differ in what an entry not written since reset
holds (10_state.md R39). That each of the two steps leaves its own buffer as it was is the
model's choice, not the rule's (log 23). -/
def Obligations.IgnoredLinesHaveNoEffect : Prop :=
  ∀ (s : State) (raw' : RawBuffer), sameTestedLines s.raw raw' →
    exec .decode { s with raw := raw' } = onNext (fun t => { t with raw := raw' }) (exec .decode s)

/-- 41_decoder.md R120, 43_session.md R164: the previous word and the previous time have no influence. -/
def Obligations.PreviousWordHasNoInfluence : Prop :=
  ∀ (s : State) (w : Word) (t : Time),
    exec .decode { s with word := w, lastT := t } = exec .decode s

/-- 41_decoder.md R134: the one `DECODE` step is the six decoder halves in index order, then the constraint
enforcer, then R164's writes. That `RAW` keeps its entries is the model's choice (log 23). -/
def Obligations.DecodeStepIsTheSixHalves : Prop :=
  ∀ s t : State, s.ph = .decode → exec .decode s = .next t →
    ∃ s1 s2 s3 s4 s5 s6 : State,
      exec .pres s = .next s1 ∧ exec .ast s1 = .next s2 ∧ exec .dpad s2 = .next s3 ∧
      exec .modep s3 = .next s4 ∧ exec .xyzm s4 = .next s5 ∧ exec .home s5 = .next s6 ∧
      t = { s6 with
        word := enforce s6.word, mode6 := getField s6.word .mode6, lastT := s6.inputs.nowMs,
        ph := .idle, trace := s6.trace ++ [.ret (enforce s6.word)] }

/-- 10_state.md R39: the one fault. `DECODE` faults exactly on an entry of the poll that no `SAMPLE`
step has written since reset. -/
def Obligations.DecodeFaultsOnlyOnUnwrittenEntries : Prop :=
  ∀ s : State,
    (s.raw.entry 1 = none → exec .decode s = .fault (.rawUnwritten 1)) ∧
    ∀ f : Fault, exec .decode s = .fault f →
      ∃ c : Cycle, f = .rawUnwritten c ∧ s.raw.entry c = none ∧ 1 ≤ c.val ∧
        c.val < (if s.mode6 then 7 else 5)

/-- 42_mode_detector.md R151 with R150: the six rows of the table, on the state after the `DECODE` step. -/
def Obligations.ModeFlagFollowsTheTransitionTable : Prop :=
  ∀ (s : State) (v : Cycle → Sample),
    (∀ c : Cycle, 1 ≤ c.val → c.val < (if s.mode6 then 7 else 5) → s.raw.entry c = some (v c)) →
    ∃ t, exec .decode s = .next t ∧
      t.mode6 = (lineLow (v 1) 2 && lineLow (v 1) 3 && (lineLow (v 4) 0 && lineLow (v 4) 1)) ∧
      getField t.word .mode6 = t.mode6 ∧
      ncyc t.mode6 = (if t.mode6 then 7 else 5) ∧
      ((s.mode6 && t.mode6) = false → t.word &&& 0x6E00#16 = 0#16)

/-! ### The invariant, and rules of the whole machine -/

/-- 10_state.md R35, R37: the invariant at reset. Its bounds on the parameters hold there by the model's
choice of them (log 4). -/
def Obligations.ResetMeetsTheInvariant : Prop := State.reset.Inv

/-- 10_state.md R35: every step keeps the invariant. -/
def Obligations.EveryStepKeepsTheInvariant : Prop :=
  ∀ s t : State, s.Inv → step s = .next t → t.Inv

/-- 60_exceptions.md R180, 10_state.md R39: from a state that meets the invariant no step stops. -/
def Obligations.InvariantStatesNeverStop : Prop :=
  ∀ s : State, s.Inv → Completes (step s)

/-- 10_state.md R28, R29, R30: `WORD`, `MODE6` and `LAST_T` are written only by `DECODE` and by `RESET`. -/
def Obligations.ResultIsWrittenOnlyByDecodeAndReset : Prop :=
  ∀ s t : State, step s = .next t → (s.inputAt 0).rst = false → s.ph ≠ .decode →
    t.word = s.word ∧ t.mode6 = s.mode6 ∧ t.lastT = s.lastT

/-- 10_state.md R21, R22: who writes `SEL`, who sets `IM` and who clears it. -/
def Obligations.SelectAndMaskHaveTheirWriters : Prop :=
  ∀ s t : State, step s = .next t → (s.inputAt 0).rst = false →
    (t.sel ≠ s.sel → s.ph = .drive) ∧
    (s.im = false → t.im = true →
      s.ph = .idle ∧ (s.inputAt 0).pollReq = true ∧
        ¬((s.inputAt 0).nowMs - s.lastT).toNat < s.params.tMin) ∧
    (s.im = true → t.im = false → s.ph = .sample ∧ s.cyc.val + 1 = (if s.mode6 then 7 else 5))

/-- 10_state.md R27: an entry of `RAW` changes only in the `SAMPLE` step of its own cycle, which writes the
six line levels of that tick; an entry once written stays so until `RESET` (R39). That the `DECODE` step
keeps every entry is the model's choice: R27 says that the model may keep them or not (log 23). -/
def Obligations.BufferIsWrittenOnlyBySample : Prop :=
  ∀ s t : State, step s = .next t → (s.inputAt 0).rst = false →
    ∀ c : Cycle,
      t.raw.values[c] = (if s.ph = .sample ∧ c = s.cyc then (s.inputAt 0).lines else s.raw.values[c]) ∧
      (t.raw.written[c] = true ↔ (s.ph = .sample ∧ c = s.cyc) ∨ s.raw.written[c] = true)

/-- 10_state.md R24, R25, 40_sequencer.md R103: where `PH` and `CYC` go from each phase. -/
def Obligations.PhaseAndCycleSuccessors : Prop :=
  ∀ s t : State, step s = .next t → (s.inputAt 0).rst = false →
    match s.ph with
    | .idle => (t.ph = .idle ∧ t.cyc = s.cyc) ∨ (t.ph = .drive ∧ t.cyc = 0)
    | .drive => t.ph = .settle ∧ t.cyc = s.cyc
    | .settle => (t.ph = .settle ∨ t.ph = .sample) ∧ t.cyc = s.cyc
    | .sample =>
      (t.ph = .decode ∧ t.cyc = s.cyc ∧ s.cyc.val + 1 = (if s.mode6 then 7 else 5)) ∨
        (t.ph = .drive ∧ t.cyc.val = s.cyc.val + 1)
    | .decode => t.ph = .idle ∧ t.cyc = s.cyc

/-- 10_state.md R33: no operation writes the parameters; nor does one touch the ports or what is to come. -/
def Obligations.ConfigurationIsFixed : Prop :=
  ∀ (i : Instr) (s t : State), exec i s = .next t →
    t.params = s.params ∧ t.inputs = s.inputs ∧ t.pending = s.pending ∧ t.ticks = s.ticks

/-- 10_state.md R32: a step extends the trace; `ack` is 1 exactly when it emits a `Return`, and `word_out`
carries that word. Outside a `RESET`, `word_out` is the word the state holds after the step. -/
def Obligations.AckAndWordOutFollowTheReturn : Prop :=
  ∀ s t : State, step s = .next t →
    ∃ evs : List Event, t.trace = s.trace ++ evs ∧
      (∀ w, Event.ret w ∈ evs ↔ s.sampleInputs.ack = true ∧ s.sampleInputs.wordOut = w) ∧
      ((s.inputAt 0).rst = false → s.sampleInputs.wordOut = t.word)

/-- 40_sequencer.md R114: what every step emits, phase by phase; a `SETTLE` tick, a `NOP` and a `RESET`
emit nothing. -/
def Obligations.EventsOfEveryStep : Prop :=
  ∀ s t : State, step s = .next t →
    ((s.inputAt 0).rst = true → t.trace = s.trace) ∧
    ((s.inputAt 0).rst = false →
      (s.ph = .idle → (s.inputAt 0).pollReq = false → t.trace = s.trace) ∧
      (s.ph = .idle → (s.inputAt 0).pollReq = true →
        t.trace = s.trace ++ [if t.ph = .idle then .ret s.word else .maskOn]) ∧
      (s.ph = .drive → t.trace = s.trace ++ [.selWrite t.sel]) ∧
      (s.ph = .settle → t.trace = s.trace) ∧
      (s.ph = .sample →
        t.trace = s.trace ++ (.sample s.cyc (s.inputAt 0).lines ::
          if t.ph = .decode then [.maskOff] else [])) ∧
      (s.ph = .decode → t.trace = s.trace ++ [.ret t.word]))

/-- 43_session.md R160: `lines` is read only in `SAMPLE`, `now_ms` only in `IDLE` with a request and in
`DECODE`. Elsewhere a step with that port changed does the same, the sampled port apart. -/
def Obligations.PortsAreReadOnlyWhereTheRuleSays : Prop :=
  ∀ (s : State) (i : Inputs) (rest : List Inputs),
    (∀ v : Sample, s.ph ≠ .sample →
      step { s with pending := { i with lines := v } :: rest } =
        onNext (State.setInputs { i with lines := v }) (step { s with pending := i :: rest })) ∧
    (∀ t : Time, ¬(s.ph = .idle ∧ i.pollReq = true) → s.ph ≠ .decode →
      step { s with pending := { i with nowMs := t } :: rest } =
        onNext (State.setInputs { i with nowMs := t }) (step { s with pending := i :: rest }))

/-- 40_sequencer.md R104, R111: under the invariant the `DRIVE` step of cycle 0 makes no transition of the
select line and that of every later cycle makes one. -/
def Obligations.DriveTogglesExceptInCycleZero : Prop :=
  ∀ s t : State, s.Inv → s.ph = .drive → (s.inputAt 0).rst = false → step s = .next t →
    (t.sel = s.sel ↔ s.cyc = 0)

/-! ### Runs of many ticks -/

/-- 43_session.md R168 with 40_sequencer.md R113, R114: a `POLL` that is accepted in `IDLE` runs for
`2 + ncyc * (N_SETTLE + 2)` ticks and leaves exactly what the atomic summary says, trace included, for
every `N_SETTLE`, every sample and every clock. The model's own fields move on by as many ticks. That
`RAW` holds the poll's samples after it is the model's choice (log 23). -/
def Obligations.AcceptedPollMeetsTheAtomicSummary : Prop :=
  ∀ s : State, s.Inv → s.ph = .idle →
    (s.inputAt 0).pollReq = true →
    (∀ j, j < pollTicks s.params s.mode6 → (s.inputAt j).rst = false) →
    s.params.tMin ≤ ((s.inputAt 0).nowMs - s.lastT).toNat →
    ∃ t u : State,
      run (pollTicks s.params s.mode6) s = .next t ∧
      s.pollSummary (s.inputAt 0).nowMs (s.inputAt (pollTicks s.params s.mode6 - 1)).nowMs
        (Vector.ofFn fun c => (s.inputAt (sampleTick s.params c)).lines) = .next u ∧
      t = { u with
        inputs := s.inputAt (pollTicks s.params s.mode6 - 1)
        pending := s.pending.drop (pollTicks s.params s.mode6)
        ticks := s.ticks + pollTicks s.params s.mode6 }

/-- 43_session.md R169, R165: as long as no poll is accepted, any number of ticks in `IDLE` writes no
state element, and each request is answered with the same word and nothing else. -/
def Obligations.CachedPollsAreIdempotent : Prop :=
  ∀ (n : Nat) (s : State), s.ph = .idle →
    (∀ j, j < n → (s.inputAt j).rst = false ∧
      ((s.inputAt j).pollReq = true →
        ((s.inputAt j).nowMs - s.lastT).toNat < s.params.tMin)) →
    ∃ t, run n s = .next t ∧
      t = { s with
        inputs := t.inputs, pending := s.pending.drop n, ticks := s.ticks + n,
        trace := s.trace ++
          List.replicate ((List.range n).countP fun j => (s.inputAt j).pollReq) (.ret s.word) }

/-- 30_encoding.md R85: a `POLL` line with `n` samples stands for `2 + n * (N_SETTLE + 2)` ticks, the
first with `poll_req = 1`, all with `rst = 0`, the samples at the `SAMPLE` steps of their cycles. -/
def Obligations.PollLineStandsForItsTicks : Prop :=
  ∀ (p : Params) (mode6 : Bool) (now t u : Time) (samples : List Sample),
    Line.wf mode6 (.poll t u samples) = true →
    ((Line.poll t u samples).inputs p.nSettle now).length = pollTicks p mode6 ∧
    (∀ i ∈ (Line.poll t u samples).inputs p.nSettle now, i.rst = false) ∧
    ((Line.poll t u samples).inputs p.nSettle now)[0]?.map (fun i => (i.pollReq, i.nowMs)) =
      some (true, t) ∧
    ∀ (c : Cycle) (v : Sample), samples[c.val]? = some v →
      ((Line.poll t u samples).inputs p.nSettle now)[sampleTick p c]?.map (·.lines) = some v

/-! ### Parameters, adapter calls, all runs -/

/-- 00_scope.md R11, 10_state.md R26: `W_SC` is the least width that holds `N_SETTLE`, a counter of that
width holds exactly the numbers below `2^W_SC`, and `DRIVE` loads `N_SETTLE` at it. -/
def Obligations.SettleCounterHasTheLeastWidth : Prop :=
  ∀ p : Params, 1 ≤ p.nSettle →
    p.nSettle < 2 ^ p.scWidth ∧ (∀ w, p.nSettle < 2 ^ w → p.scWidth ≤ w) ∧
    (SettleCounter.load p).width = p.scWidth ∧ (SettleCounter.load p).count = p.nSettle ∧
    ∀ n, (∃ c : SettleCounter, c.width = p.scWidth ∧ c.count = n) ↔ n < 2 ^ p.scWidth

/-- 00_scope.md R10, R11: no step depends on `F_CLK`, `PULL` or `SEL_IMPL`. A step with all three changed
does the same, the parameters apart. -/
def Obligations.OpenParametersHaveNoEffect : Prop :=
  ∀ (s : State) (p : Params), p.nSettle = s.params.nSettle → p.tMin = s.params.tMin →
    step (s.setParams p) = onNext (State.setParams p) (step s)

/-- 60_exceptions.md R193 with 40_sequencer.md R105: the adapter calls of every step, phase by phase and for
both values of `SEL_IMPL`, and that they bring the select pin to `SEL`. That a toggle realisation makes no
call where the level does not change is the model's choice (log 24). -/
def Obligations.AdapterCallsRealiseTheEvents : Prop :=
  ∀ s t : State, step s = .next t → (s.inputAt 0).rst = false →
    selectLevelAfter s.sel (stepCalls s t) = t.sel ∧
    (s.ph = .idle → stepCalls s t = if t.ph = .drive then [.suppressInterrupts] else []) ∧
    (s.ph = .drive → s.params.selImpl = .explicitLevel → stepCalls s t = [.writeLevel .select t.sel]) ∧
    (s.ph = .drive → s.params.selImpl = .hardwareToggle →
      stepCalls s t = if t.sel = s.sel then [] else [.toggleLevel .select]) ∧
    (s.ph = .drive → s.params.selImpl = .hardwareToggle → s.Inv →
      stepCalls s t = if s.cyc = 0 then [] else [.toggleLevel .select]) ∧
    (s.ph = .settle → stepCalls s t = []) ∧
    (s.ph = .sample →
      stepCalls s t = .readLevels :: if t.ph = .decode then [.restoreInterrupts] else []) ∧
    (s.ph = .decode → stepCalls s t = [])

/-- 60_exceptions.md R180, 10_state.md R39 ("it can never happen on the engine"): no run stops, however long,
whatever the inputs: from no state that meets the invariant, and so not from reset, whatever host operations
and samples come from outside. -/
def Obligations.NoRunStops : Prop :=
  (∀ (n : Nat) (s : State), s.Inv → Completes (run n s)) ∧
  ∀ (n : Nat) (ports : List Inputs), Completes (run n { State.reset with pending := ports })
end

