-- ==== Sys2Proof/Laws/State.lean ====
section
/-! SUPPORT. One lemma per field per update of the state, true by definition. -/

namespace Sys2Proof.Machine

open Sys2Proof

/-! `emit E` (00_scope.md R14) changes only the trace. -/

@[simp] theorem State.emit_sel (s : State) (e : Event) : (s.emit e).sel = s.sel := rfl
@[simp] theorem State.emit_im (s : State) (e : Event) : (s.emit e).im = s.im := rfl
@[simp] theorem State.emit_ph (s : State) (e : Event) : (s.emit e).ph = s.ph := rfl
@[simp] theorem State.emit_cyc (s : State) (e : Event) : (s.emit e).cyc = s.cyc := rfl
@[simp] theorem State.emit_sc (s : State) (e : Event) : (s.emit e).sc = s.sc := rfl
@[simp] theorem State.emit_raw (s : State) (e : Event) : (s.emit e).raw = s.raw := rfl
@[simp] theorem State.emit_word (s : State) (e : Event) : (s.emit e).word = s.word := rfl
@[simp] theorem State.emit_mode6 (s : State) (e : Event) : (s.emit e).mode6 = s.mode6 := rfl
@[simp] theorem State.emit_lastT (s : State) (e : Event) : (s.emit e).lastT = s.lastT := rfl
@[simp] theorem State.emit_params (s : State) (e : Event) : (s.emit e).params = s.params := rfl
@[simp] theorem State.emit_inputs (s : State) (e : Event) : (s.emit e).inputs = s.inputs := rfl
@[simp] theorem State.emit_pending (s : State) (e : Event) : (s.emit e).pending = s.pending := rfl
@[simp] theorem State.emit_ticks (s : State) (e : Event) : (s.emit e).ticks = s.ticks := rfl
@[simp] theorem State.emit_trace (s : State) (e : Event) : (s.emit e).trace = s.trace ++ [e] := rfl

/-! Sampling the ports (10_state.md R31) changes only the model's input fields. -/

@[simp] theorem State.sampleInputs_sel (s : State) : s.sampleInputs.sel = s.sel := rfl
@[simp] theorem State.sampleInputs_im (s : State) : s.sampleInputs.im = s.im := rfl
@[simp] theorem State.sampleInputs_ph (s : State) : s.sampleInputs.ph = s.ph := rfl
@[simp] theorem State.sampleInputs_cyc (s : State) : s.sampleInputs.cyc = s.cyc := rfl
@[simp] theorem State.sampleInputs_sc (s : State) : s.sampleInputs.sc = s.sc := rfl
@[simp] theorem State.sampleInputs_raw (s : State) : s.sampleInputs.raw = s.raw := rfl
@[simp] theorem State.sampleInputs_word (s : State) : s.sampleInputs.word = s.word := rfl
@[simp] theorem State.sampleInputs_mode6 (s : State) : s.sampleInputs.mode6 = s.mode6 := rfl
@[simp] theorem State.sampleInputs_lastT (s : State) : s.sampleInputs.lastT = s.lastT := rfl
@[simp] theorem State.sampleInputs_params (s : State) : s.sampleInputs.params = s.params := rfl
@[simp] theorem State.sampleInputs_inputs (s : State) : s.sampleInputs.inputs = s.nextInputs := rfl
@[simp] theorem State.sampleInputs_pending (s : State) : s.sampleInputs.pending = s.pending.tail := rfl
@[simp] theorem State.sampleInputs_ticks (s : State) : s.sampleInputs.ticks = s.ticks + 1 := rfl
@[simp] theorem State.sampleInputs_trace (s : State) : s.sampleInputs.trace = s.trace := rfl

/-! Other sampled inputs, all else the same. -/

@[simp] theorem State.setInputs_sel (i : Inputs) (s : State) : (s.setInputs i).sel = s.sel := rfl
@[simp] theorem State.setInputs_im (i : Inputs) (s : State) : (s.setInputs i).im = s.im := rfl
@[simp] theorem State.setInputs_ph (i : Inputs) (s : State) : (s.setInputs i).ph = s.ph := rfl
@[simp] theorem State.setInputs_cyc (i : Inputs) (s : State) : (s.setInputs i).cyc = s.cyc := rfl
@[simp] theorem State.setInputs_sc (i : Inputs) (s : State) : (s.setInputs i).sc = s.sc := rfl
@[simp] theorem State.setInputs_raw (i : Inputs) (s : State) : (s.setInputs i).raw = s.raw := rfl
@[simp] theorem State.setInputs_word (i : Inputs) (s : State) : (s.setInputs i).word = s.word := rfl
@[simp] theorem State.setInputs_mode6 (i : Inputs) (s : State) : (s.setInputs i).mode6 = s.mode6 := rfl
@[simp] theorem State.setInputs_lastT (i : Inputs) (s : State) : (s.setInputs i).lastT = s.lastT := rfl
@[simp] theorem State.setInputs_params (i : Inputs) (s : State) : (s.setInputs i).params = s.params := rfl
@[simp] theorem State.setInputs_inputs (i : Inputs) (s : State) : (s.setInputs i).inputs = i := rfl
@[simp] theorem State.setInputs_pending (i : Inputs) (s : State) : (s.setInputs i).pending = s.pending := rfl
@[simp] theorem State.setInputs_ticks (i : Inputs) (s : State) : (s.setInputs i).ticks = s.ticks := rfl
@[simp] theorem State.setInputs_trace (i : Inputs) (s : State) : (s.setInputs i).trace = s.trace := rfl

/-! Seeing a state with other parameters. -/

@[simp] theorem State.setParams_sel (p : Params) (s : State) : (s.setParams p).sel = s.sel := rfl
@[simp] theorem State.setParams_im (p : Params) (s : State) : (s.setParams p).im = s.im := rfl
@[simp] theorem State.setParams_ph (p : Params) (s : State) : (s.setParams p).ph = s.ph := rfl
@[simp] theorem State.setParams_cyc (p : Params) (s : State) : (s.setParams p).cyc = s.cyc := rfl
@[simp] theorem State.setParams_sc (p : Params) (s : State) : (s.setParams p).sc = s.sc := rfl
@[simp] theorem State.setParams_raw (p : Params) (s : State) : (s.setParams p).raw = s.raw := rfl
@[simp] theorem State.setParams_word (p : Params) (s : State) : (s.setParams p).word = s.word := rfl
@[simp] theorem State.setParams_mode6 (p : Params) (s : State) : (s.setParams p).mode6 = s.mode6 := rfl
@[simp] theorem State.setParams_lastT (p : Params) (s : State) : (s.setParams p).lastT = s.lastT := rfl
@[simp] theorem State.setParams_params (p : Params) (s : State) : (s.setParams p).params = p := rfl
@[simp] theorem State.setParams_inputs (p : Params) (s : State) : (s.setParams p).inputs = s.inputs := rfl
@[simp] theorem State.setParams_pending (p : Params) (s : State) : (s.setParams p).pending = s.pending := rfl
@[simp] theorem State.setParams_ticks (p : Params) (s : State) : (s.setParams p).ticks = s.ticks := rfl
@[simp] theorem State.setParams_trace (p : Params) (s : State) : (s.setParams p).trace = s.trace := rfl

/-! `RESET` (70_reset_and_hazards.md R200). -/

@[simp] theorem State.resetEngine_sel (s : State) : s.resetEngine.sel = true := rfl
@[simp] theorem State.resetEngine_im (s : State) : s.resetEngine.im = false := rfl
@[simp] theorem State.resetEngine_ph (s : State) : s.resetEngine.ph = .idle := rfl
@[simp] theorem State.resetEngine_cyc (s : State) : s.resetEngine.cyc = 0 := rfl
@[simp] theorem State.resetEngine_sc (s : State) : s.resetEngine.sc = SettleCounter.zero s.params.scWidth := rfl
@[simp] theorem State.resetEngine_raw (s : State) : s.resetEngine.raw = RawBuffer.unspecified := rfl
@[simp] theorem State.resetEngine_word (s : State) : s.resetEngine.word = 0x0000#16 := rfl
@[simp] theorem State.resetEngine_mode6 (s : State) : s.resetEngine.mode6 = false := rfl
@[simp] theorem State.resetEngine_lastT (s : State) : s.resetEngine.lastT = 0#32 := rfl
@[simp] theorem State.resetEngine_params (s : State) : s.resetEngine.params = s.params := rfl
@[simp] theorem State.resetEngine_inputs (s : State) : s.resetEngine.inputs = s.inputs := rfl
@[simp] theorem State.resetEngine_pending (s : State) : s.resetEngine.pending = s.pending := rfl
@[simp] theorem State.resetEngine_ticks (s : State) : s.resetEngine.ticks = s.ticks := rfl
@[simp] theorem State.resetEngine_trace (s : State) : s.resetEngine.trace = s.trace := rfl

/-! The cached return (43_session.md R162). -/

@[simp] theorem State.cachedReturn_sel (s : State) : s.cachedReturn.sel = s.sel := rfl
@[simp] theorem State.cachedReturn_im (s : State) : s.cachedReturn.im = s.im := rfl
@[simp] theorem State.cachedReturn_ph (s : State) : s.cachedReturn.ph = s.ph := rfl
@[simp] theorem State.cachedReturn_cyc (s : State) : s.cachedReturn.cyc = s.cyc := rfl
@[simp] theorem State.cachedReturn_sc (s : State) : s.cachedReturn.sc = s.sc := rfl
@[simp] theorem State.cachedReturn_raw (s : State) : s.cachedReturn.raw = s.raw := rfl
@[simp] theorem State.cachedReturn_word (s : State) : s.cachedReturn.word = s.word := rfl
@[simp] theorem State.cachedReturn_mode6 (s : State) : s.cachedReturn.mode6 = s.mode6 := rfl
@[simp] theorem State.cachedReturn_lastT (s : State) : s.cachedReturn.lastT = s.lastT := rfl
@[simp] theorem State.cachedReturn_params (s : State) : s.cachedReturn.params = s.params := rfl
@[simp] theorem State.cachedReturn_inputs (s : State) : s.cachedReturn.inputs = s.inputs := rfl
@[simp] theorem State.cachedReturn_pending (s : State) : s.cachedReturn.pending = s.pending := rfl
@[simp] theorem State.cachedReturn_ticks (s : State) : s.cachedReturn.ticks = s.ticks := rfl
@[simp] theorem State.cachedReturn_trace (s : State) : s.cachedReturn.trace = s.trace ++ [.ret s.word] := rfl

/-! The accept step (43_session.md R163). -/

@[simp] theorem State.accept_sel (s : State) : s.accept.sel = s.sel := rfl
@[simp] theorem State.accept_im (s : State) : s.accept.im = true := rfl
@[simp] theorem State.accept_ph (s : State) : s.accept.ph = .drive := rfl
@[simp] theorem State.accept_cyc (s : State) : s.accept.cyc = 0 := rfl
@[simp] theorem State.accept_sc (s : State) : s.accept.sc = s.sc := rfl
@[simp] theorem State.accept_raw (s : State) : s.accept.raw = s.raw := rfl
@[simp] theorem State.accept_word (s : State) : s.accept.word = s.word := rfl
@[simp] theorem State.accept_mode6 (s : State) : s.accept.mode6 = s.mode6 := rfl
@[simp] theorem State.accept_lastT (s : State) : s.accept.lastT = s.lastT := rfl
@[simp] theorem State.accept_params (s : State) : s.accept.params = s.params := rfl
@[simp] theorem State.accept_inputs (s : State) : s.accept.inputs = s.inputs := rfl
@[simp] theorem State.accept_pending (s : State) : s.accept.pending = s.pending := rfl
@[simp] theorem State.accept_ticks (s : State) : s.accept.ticks = s.ticks := rfl
@[simp] theorem State.accept_trace (s : State) : s.accept.trace = s.trace ++ [.maskOn] := rfl

/-! Phase `DRIVE` (40_sequencer.md R106). -/

@[simp] theorem State.driveCycle_sel (c : Cycle) (s : State) : (s.driveCycle c).sel = selLevel c := rfl
@[simp] theorem State.driveCycle_im (c : Cycle) (s : State) : (s.driveCycle c).im = s.im := rfl
@[simp] theorem State.driveCycle_ph (c : Cycle) (s : State) : (s.driveCycle c).ph = .settle := rfl
@[simp] theorem State.driveCycle_cyc (c : Cycle) (s : State) : (s.driveCycle c).cyc = s.cyc := rfl
@[simp] theorem State.driveCycle_sc (c : Cycle) (s : State) : (s.driveCycle c).sc = SettleCounter.load s.params := rfl
@[simp] theorem State.driveCycle_raw (c : Cycle) (s : State) : (s.driveCycle c).raw = s.raw := rfl
@[simp] theorem State.driveCycle_word (c : Cycle) (s : State) : (s.driveCycle c).word = s.word := rfl
@[simp] theorem State.driveCycle_mode6 (c : Cycle) (s : State) : (s.driveCycle c).mode6 = s.mode6 := rfl
@[simp] theorem State.driveCycle_lastT (c : Cycle) (s : State) : (s.driveCycle c).lastT = s.lastT := rfl
@[simp] theorem State.driveCycle_params (c : Cycle) (s : State) : (s.driveCycle c).params = s.params := rfl
@[simp] theorem State.driveCycle_inputs (c : Cycle) (s : State) : (s.driveCycle c).inputs = s.inputs := rfl
@[simp] theorem State.driveCycle_pending (c : Cycle) (s : State) : (s.driveCycle c).pending = s.pending := rfl
@[simp] theorem State.driveCycle_ticks (c : Cycle) (s : State) : (s.driveCycle c).ticks = s.ticks := rfl
@[simp] theorem State.driveCycle_trace (c : Cycle) (s : State) : (s.driveCycle c).trace = s.trace ++ [.selWrite (selLevel c)] := rfl

/-! The capture (40_sequencer.md R108). -/

@[simp] theorem State.capture_sel (c : Cycle) (s : State) : (s.capture c).sel = s.sel := rfl
@[simp] theorem State.capture_im (c : Cycle) (s : State) : (s.capture c).im = s.im := rfl
@[simp] theorem State.capture_ph (c : Cycle) (s : State) : (s.capture c).ph = s.ph := rfl
@[simp] theorem State.capture_cyc (c : Cycle) (s : State) : (s.capture c).cyc = s.cyc := rfl
@[simp] theorem State.capture_sc (c : Cycle) (s : State) : (s.capture c).sc = s.sc := rfl
@[simp] theorem State.capture_raw (c : Cycle) (s : State) : (s.capture c).raw = s.raw.write c s.inputs.lines := rfl
@[simp] theorem State.capture_word (c : Cycle) (s : State) : (s.capture c).word = s.word := rfl
@[simp] theorem State.capture_mode6 (c : Cycle) (s : State) : (s.capture c).mode6 = s.mode6 := rfl
@[simp] theorem State.capture_lastT (c : Cycle) (s : State) : (s.capture c).lastT = s.lastT := rfl
@[simp] theorem State.capture_params (c : Cycle) (s : State) : (s.capture c).params = s.params := rfl
@[simp] theorem State.capture_inputs (c : Cycle) (s : State) : (s.capture c).inputs = s.inputs := rfl
@[simp] theorem State.capture_pending (c : Cycle) (s : State) : (s.capture c).pending = s.pending := rfl
@[simp] theorem State.capture_ticks (c : Cycle) (s : State) : (s.capture c).ticks = s.ticks := rfl
@[simp] theorem State.capture_trace (c : Cycle) (s : State) : (s.capture c).trace = s.trace ++ [.sample c s.inputs.lines] := rfl

/-! The end of sampling (40_sequencer.md R109). -/

@[simp] theorem State.finishSampling_sel (s : State) : s.finishSampling.sel = s.sel := rfl
@[simp] theorem State.finishSampling_im (s : State) : s.finishSampling.im = false := rfl
@[simp] theorem State.finishSampling_ph (s : State) : s.finishSampling.ph = .decode := rfl
@[simp] theorem State.finishSampling_cyc (s : State) : s.finishSampling.cyc = s.cyc := rfl
@[simp] theorem State.finishSampling_sc (s : State) : s.finishSampling.sc = s.sc := rfl
@[simp] theorem State.finishSampling_raw (s : State) : s.finishSampling.raw = s.raw := rfl
@[simp] theorem State.finishSampling_word (s : State) : s.finishSampling.word = s.word := rfl
@[simp] theorem State.finishSampling_mode6 (s : State) : s.finishSampling.mode6 = s.mode6 := rfl
@[simp] theorem State.finishSampling_lastT (s : State) : s.finishSampling.lastT = s.lastT := rfl
@[simp] theorem State.finishSampling_params (s : State) : s.finishSampling.params = s.params := rfl
@[simp] theorem State.finishSampling_inputs (s : State) : s.finishSampling.inputs = s.inputs := rfl
@[simp] theorem State.finishSampling_pending (s : State) : s.finishSampling.pending = s.pending := rfl
@[simp] theorem State.finishSampling_ticks (s : State) : s.finishSampling.ticks = s.ticks := rfl
@[simp] theorem State.finishSampling_trace (s : State) : s.finishSampling.trace = s.trace ++ [.maskOff] := rfl

/-! The completion of a poll (43_session.md R164). -/

@[simp] theorem State.complete_sel (d : Decoded) (s : State) : (s.complete d).sel = s.sel := rfl
@[simp] theorem State.complete_im (d : Decoded) (s : State) : (s.complete d).im = s.im := rfl
@[simp] theorem State.complete_ph (d : Decoded) (s : State) : (s.complete d).ph = .idle := rfl
@[simp] theorem State.complete_cyc (d : Decoded) (s : State) : (s.complete d).cyc = s.cyc := rfl
@[simp] theorem State.complete_sc (d : Decoded) (s : State) : (s.complete d).sc = s.sc := rfl
@[simp] theorem State.complete_raw (d : Decoded) (s : State) : (s.complete d).raw = s.raw := rfl
@[simp] theorem State.complete_word (d : Decoded) (s : State) : (s.complete d).word = d.w := rfl
@[simp] theorem State.complete_mode6 (d : Decoded) (s : State) : (s.complete d).mode6 = d.mNew := rfl
@[simp] theorem State.complete_lastT (d : Decoded) (s : State) : (s.complete d).lastT = s.inputs.nowMs := rfl
@[simp] theorem State.complete_params (d : Decoded) (s : State) : (s.complete d).params = s.params := rfl
@[simp] theorem State.complete_inputs (d : Decoded) (s : State) : (s.complete d).inputs = s.inputs := rfl
@[simp] theorem State.complete_pending (d : Decoded) (s : State) : (s.complete d).pending = s.pending := rfl
@[simp] theorem State.complete_ticks (d : Decoded) (s : State) : (s.complete d).ticks = s.ticks := rfl
@[simp] theorem State.complete_trace (d : Decoded) (s : State) : (s.complete d).trace = s.trace ++ [.ret d.w] := rfl

/-! The settle tick (40_sequencer.md R107) touches the counter and the phase only. -/

@[simp] theorem State.settleTick_sel (s : State) : s.settleTick.sel = s.sel := by
  unfold State.settleTick; split <;> rfl
@[simp] theorem State.settleTick_im (s : State) : s.settleTick.im = s.im := by
  unfold State.settleTick; split <;> rfl
@[simp] theorem State.settleTick_cyc (s : State) : s.settleTick.cyc = s.cyc := by
  unfold State.settleTick; split <;> rfl
@[simp] theorem State.settleTick_raw (s : State) : s.settleTick.raw = s.raw := by
  unfold State.settleTick; split <;> rfl
@[simp] theorem State.settleTick_word (s : State) : s.settleTick.word = s.word := by
  unfold State.settleTick; split <;> rfl
@[simp] theorem State.settleTick_mode6 (s : State) : s.settleTick.mode6 = s.mode6 := by
  unfold State.settleTick; split <;> rfl
@[simp] theorem State.settleTick_lastT (s : State) : s.settleTick.lastT = s.lastT := by
  unfold State.settleTick; split <;> rfl
@[simp] theorem State.settleTick_params (s : State) : s.settleTick.params = s.params := by
  unfold State.settleTick; split <;> rfl
@[simp] theorem State.settleTick_inputs (s : State) : s.settleTick.inputs = s.inputs := by
  unfold State.settleTick; split <;> rfl
@[simp] theorem State.settleTick_pending (s : State) : s.settleTick.pending = s.pending := by
  unfold State.settleTick; split <;> rfl
@[simp] theorem State.settleTick_ticks (s : State) : s.settleTick.ticks = s.ticks := by
  unfold State.settleTick; split <;> rfl
@[simp] theorem State.settleTick_trace (s : State) : s.settleTick.trace = s.trace := by
  unfold State.settleTick; split <;> rfl

end Sys2Proof.Machine
end

