-- ==== Sys2Proof/Laws/Word.lean ====
section
/-! SUPPORT. Bits and fields of the decoded state word. -/

namespace Sys2Proof.Machine

open Sys2Proof

/-- A written bit reads as written, and every other bit as before. -/
theorem setBit_getLsbD (w : Word) (i k : Nat) (v : Bool) (hi : i < 16) :
    (setBit w i v).getLsbD k = if k = i then v else w.getLsbD k := by
  unfold setBit
  by_cases hk : k < 16
  · by_cases h : k = i
    · subst h
      cases v <;> simp [hk]
    · have hz : decide (k < i) = true ∨ decide (k - i = 0) = false := by
        simp only [decide_eq_true_eq, decide_eq_false_iff_not]; omega
      rcases hz with hz | hz <;> cases v <;> simp_all [BitVec.getElem_one]
  · have hne : k ≠ i := by omega
    have hge : 16 ≤ k := by omega
    simp [hne, BitVec.getLsbD_of_ge _ _ hge]

/-- Every field is one of the sixteen bits. -/
theorem Field.bit_lt (f : Field) : f.bit < 16 := by cases f <;> decide

/-- A written field, bit by bit. -/
theorem setField_getLsbD (w : Word) (f : Field) (v : Bool) (k : Nat) :
    (setField w f v).getLsbD k = if k = f.bit then v else w.getLsbD k :=
  setBit_getLsbD w f.bit k v f.bit_lt

/-- No field is the reserved bit (30_encoding.md R83). -/
@[simp] theorem setField_reserved (w : Word) (f : Field) (v : Bool) : (setField w f v)[15] = w[15] := by
  have h := setField_getLsbD w f v 15
  rw [if_neg (by cases f <;> decide)] at h
  simpa using h

/-- Different fields are different bits (30_encoding.md R78). -/
theorem Field.bit_injective (f g : Field) : f.bit = g.bit ↔ f = g := by
  cases f <;> cases g <;> decide

/-- A written field reads as written, and every other field as before. -/
@[simp] theorem getField_setField (w : Word) (f g : Field) (v : Bool) :
    getField (setField w f v) g = if g = f then v else getField w g := by
  simp only [getField, setField_getLsbD, Field.bit_injective]

/-- The zero word has no field set. -/
@[simp] theorem getField_zero (f : Field) : getField 0#16 f = false := by
  cases f <;> decide

/-- Two words with the same fifteen fields and the same reserved bit are equal. -/
theorem word_ext_fields (u w : Word) (h : ∀ f, getField u f = getField w f)
    (h15 : u.getLsbD 15 = w.getLsbD 15) : u = w := by
  have key : ∀ i, i < 16 → u.getLsbD i = w.getLsbD i := by
    intro i hi
    have := h .present; have := h .mode6; have := h .up; have := h .down; have := h .left
    have := h .right; have := h .a; have := h .b; have := h .c; have := h .x; have := h .y
    have := h .z; have := h .start; have := h .mode; have := h .home
    simp only [getField, Field.bit] at *
    interval_cases i <;> assumption
  exact BitVec.eq_of_getLsbD_eq key

/-- The D-pad exclusion, bit by bit (41_decoder.md R130). -/
theorem clearAxis_getLsbD (f g : Field) (w : Word) (k : Nat) :
    (clearAxis f g w).getLsbD k =
      if getField w f && getField w g then
        (if k = g.bit then false else if k = f.bit then false else w.getLsbD k)
      else w.getLsbD k := by
  unfold clearAxis
  split <;> simp [setField_getLsbD]

/-- The mode-exclusive clear, field by field (41_decoder.md R131). -/
theorem getField_clearExclusive (w : Word) (f : Field) :
    getField (clearExclusive w) f =
      (getField w f &&
        (getField w .mode6 || !(f = .x || f = .y || f = .z || f = .mode || f = .home))) := by
  unfold clearExclusive
  by_cases h : getField w .mode6 = true
  · simp [h]
  · rw [Bool.not_eq_true] at h
    rw [h, if_neg Bool.false_ne_true]
    cases f <;> simp [getField, Field.bit]

/-- The presence clear, field by field (41_decoder.md R132). -/
theorem getField_clearAbsent (w : Word) (f : Field) :
    getField (clearAbsent w) f = (getField w f && getField w .present) := by
  unfold clearAbsent
  split <;> simp_all

end Sys2Proof.Machine
end

