-- ==== Sys2Proof/Laws/Ops.lean ====
section
/-! SUPPORT. One lemma per shared operation that says what it does: the buffer, the ports, the selection of
a step, the step itself, and a run of ticks. -/

namespace Sys2Proof.Machine

open Sys2Proof

/-! The sample buffer. -/

/-- What can be read of an entry after a write (20_memory.md R57). -/
theorem RawBuffer.entry_write (raw : RawBuffer) (c d : Cycle) (v : Sample) :
    (raw.write c v).entry d = if d = c then some v else raw.entry d := by
  by_cases h : d = c
  · subst h; simp [RawBuffer.write, RawBuffer.entry]
  · have : c.val ≠ d.val := fun e => h (Fin.ext e.symm)
    simp [RawBuffer.write, RawBuffer.entry, h, this]

/-- What an entry holds after a write. -/
theorem RawBuffer.values_write (raw : RawBuffer) (c d : Cycle) (v : Sample) :
    (raw.write c v).values[d] = if d = c then v else raw.values[d] := by
  by_cases h : d = c
  · subst h; simp [RawBuffer.write]
  · have : c.val ≠ d.val := fun e => h (Fin.ext e.symm)
    simp [RawBuffer.write, h, this]

/-- Which entries are written since reset after a write (10_state.md R39; log 5). -/
theorem RawBuffer.written_write (raw : RawBuffer) (c d : Cycle) (v : Sample) :
    (raw.write c v).written[d] = true ↔ d = c ∨ raw.written[d] = true := by
  by_cases h : d = c
  · subst h; simp [RawBuffer.write]
  · have : c.val ≠ d.val := fun e => h (Fin.ext e.symm)
    simp [RawBuffer.write, h, this]

/-- After `RESET` no entry can be read (10_state.md R39). -/
@[simp] theorem RawBuffer.entry_unspecified (c : Cycle) : RawBuffer.unspecified.entry c = none := by
  match c with
  | 0 | 1 | 2 | 3 | 4 | 5 | 6 => rfl

/-- After `RESET` every entry holds the free value of its cycle (70_reset_and_hazards.md R200; log 25). -/
@[simp] theorem RawBuffer.values_unspecified (c : Cycle) :
    RawBuffer.unspecified.values[c] = Config.freeRaw c := by
  match c with
  | 0 | 1 | 2 | 3 | 4 | 5 | 6 => rfl

/-- Reading a written entry. -/
theorem RawBuffer.read_of_some {raw : RawBuffer} {c : Cycle} {v : Sample} (h : raw.entry c = some v) :
    raw.read c = .ok v := by simp only [RawBuffer.read, h]

/-- The activated sample of a written entry (41_decoder.md R122). -/
theorem RawBuffer.act_of_some {raw : RawBuffer} {c : Cycle} {v : Sample} (h : raw.entry c = some v) :
    raw.act c = .ok (activate v) := by simp only [RawBuffer.act, RawBuffer.read_of_some h]

/-- An unwritten entry has no activated sample (10_state.md R39). -/
theorem RawBuffer.act_of_none {raw : RawBuffer} {c : Cycle} (h : raw.entry c = none) :
    raw.act c = .error c := by simp only [RawBuffer.act, RawBuffer.read, h]

/-- Which entries can be read, and what an unreadable one answers. -/
theorem RawBuffer.act_cases (raw : RawBuffer) (c : Cycle) :
    (∃ v, raw.entry c = some v ∧ raw.act c = .ok (activate v)) ∨ (raw.entry c = none ∧ raw.act c = .error c) := by
  cases h : raw.entry c with
  | some v => exact .inl ⟨v, rfl, RawBuffer.act_of_some h⟩
  | none => exact .inr ⟨rfl, RawBuffer.act_of_none h⟩

/-- A line is active when it was low (30_encoding.md R77). -/
theorem activate_getLsbD (v : Sample) (i : Nat) (h : i < 6) : (activate v).getLsbD i = lineLow v i := by
  simp [activate, lineLow, h]

/-- The same in the form `simp` leaves it. -/
@[simp] theorem activate_getElem (v : Sample) (i : Nat) (h : i < 6) : (activate v)[i] = lineLow v i := by
  simp [activate, lineLow, h]

/-- A written entry of a filled buffer: every cycle that is filled holds a value (43_session.md R168). -/
theorem RawBuffer.isSome_fill (samples : Vector Sample 7) (cs : List Cycle) (raw : RawBuffer) (c : Cycle)
    (h : c ∈ cs ∨ (raw.entry c).isSome = true) : ((RawBuffer.fill samples cs raw).entry c).isSome = true := by
  induction cs generalizing raw with
  | nil => simpa [RawBuffer.fill] using h
  | cons d cs ih =>
    apply ih
    rw [RawBuffer.entry_write]
    by_cases hd : c = d
    · exact .inr (by rw [if_pos hd]; rfl)
    · rw [if_neg hd]
      exact h.imp_left fun hm => (List.mem_cons.1 hm).resolve_left hd

/-- What a capture into an entry not yet written leaves of each entry (log 12). -/
theorem RawBuffer.entry_captureUnwritten (v : Sample) (raw : RawBuffer) (c d : Cycle) :
    (raw.captureUnwritten v c).entry d = if d = c then some ((raw.entry d).getD v) else raw.entry d := by
  unfold RawBuffer.captureUnwritten
  by_cases hw : raw.written[c] = true
  · rw [if_pos hw]
    split
    · next h => subst h; simp [RawBuffer.entry, hw]
    · rfl
  · rw [if_neg hw, RawBuffer.entry_write]
    split
    · next h => subst h; simp [RawBuffer.entry, hw]
    · rfl

/-- What a placement's captures leave in an entry: its own value, or the levels at the ports (log 12). -/
theorem State.entry_capturePorts (s : State) (c : Cycle) :
    s.capturePorts.raw.entry c = some ((s.raw.entry c).getD s.inputs.lines) := by
  simp only [State.capturePorts, List.foldl_cons, List.foldl_nil, RawBuffer.entry_captureUnwritten]
  match c with
  | 0 | 1 | 2 | 3 | 4 | 5 | 6 => simp

/-! The settle counter. -/

/-- `N_SETTLE` fits the counter's width (00_scope.md R11). -/
theorem nSettle_lt_two_pow (p : Params) : p.nSettle < 2 ^ p.scWidth := Nat.lt_log2_self

/-- The loaded counter holds `N_SETTLE`. -/
@[simp] theorem SettleCounter.count_load (p : Params) : (SettleCounter.load p).count = p.nSettle := by
  show (BitVec.ofNat p.scWidth p.nSettle).toNat = p.nSettle
  rw [BitVec.toNat_ofNat, Nat.mod_eq_of_lt (nSettle_lt_two_pow p)]

@[simp] theorem SettleCounter.width_load (p : Params) : (SettleCounter.load p).width = p.scWidth := rfl

@[simp] theorem SettleCounter.width_dec (c : SettleCounter) : c.dec.width = c.width := rfl

@[simp] theorem SettleCounter.count_zero (w : Nat) : (SettleCounter.zero w).count = 0 := rfl

@[simp] theorem SettleCounter.width_zero (w : Nat) : (SettleCounter.zero w).width = w := rfl

/-- The decrement does not wrap where it is applied (43_session.md R167). -/
theorem SettleCounter.count_dec {c : SettleCounter} (h : 1 ≤ c.count) : c.dec.count = c.count - 1 := by
  have hlt : c.value.toNat < 2 ^ c.width := c.value.isLt
  have h1 : 1 ≤ c.value.toNat := h
  show (c.value - 1#c.width).toNat = c.value.toNat - 1
  rw [BitVec.toNat_sub, BitVec.toNat_ofNat, Nat.mod_eq_of_lt (show 1 < 2 ^ c.width by omega)]
  rw [show 2 ^ c.width - 1 + c.value.toNat = c.value.toNat - 1 + 2 ^ c.width by omega, Nat.add_mod_right,
    Nat.mod_eq_of_lt (by omega)]

/-- A counter is its width and its number. -/
theorem SettleCounter.ext_count {c d : SettleCounter} (hw : c.width = d.width) (hc : c.count = d.count) :
    c = d := by
  obtain ⟨w, v⟩ := c
  obtain ⟨w', v'⟩ := d
  subst hw
  rw [show v = v' from BitVec.eq_of_toNat_eq hc]

/-- A counter that holds 0. -/
theorem SettleCounter.eq_zero {c : SettleCounter} (h : c.count = 0) : c = SettleCounter.zero c.width :=
  SettleCounter.ext_count rfl (h.trans (SettleCounter.count_zero _).symm)

/-! The ports. -/

/-- The ports at the next tick are the ports 0 ticks from now. -/
theorem State.nextInputs_eq (s : State) : s.nextInputs = s.inputAt 0 := by
  unfold State.nextInputs State.inputAt
  cases s.pending <;> rfl

/-- The ports to come depend on what is settled and on the tick count only. -/
theorem State.inputAt_congr {s t : State} (hp : t.pending = s.pending) (ht : t.ticks = s.ticks)
    (j : Nat) : t.inputAt j = s.inputAt j := by
  simp only [State.inputAt, hp, ht]

/-- After a tick, everything to come is one tick nearer. -/
theorem State.inputAt_sampleInputs (s : State) (j : Nat) :
    s.sampleInputs.inputAt j = s.inputAt (j + 1) := by
  simp only [State.inputAt, State.sampleInputs_pending, State.sampleInputs_ticks]
  have h : s.ticks + 1 + j = s.ticks + (j + 1) := by omega
  cases s.pending <;> simp [h]

/-! The rate limiter. -/

/-- The rate-limit test (43_session.md R161). -/
theorem State.rateLimited_iff (s : State) :
    s.rateLimited = true ↔ (s.inputs.nowMs - s.lastT).toNat < s.params.tMin :=
  decide_eq_true_iff

/-- The modular subtraction as an integer remainder (43_session.md R161, R167). -/
theorem elapsed_toNat (now last : Time) :
    (now - last).toNat = (now.toNat + 2 ^ 32 - last.toNat) % 2 ^ 32 := by
  rw [BitVec.toNat_sub]
  congr 1
  omega

/-- `POLL` in `IDLE`: the two outcomes (43_session.md R162, R163). -/
theorem State.pollIdle_eq (s : State) :
    s.pollIdle =
      if (s.inputs.nowMs - s.lastT).toNat < s.params.tMin then s.cachedReturn else s.accept :=
  if_congr s.rateLimited_iff rfl rfl

/-! The parts of a phase. -/

/-- The level of a cycle is high exactly on the even ones (30_encoding.md R75). -/
theorem selLevel_eq (c : Cycle) : selLevel c = decide (c.val % 2 = 0) := by
  revert c; decide

/-- The number of cycles is 7 or 5 (42_mode_detector.md R146). -/
theorem ncyc_eq (m : Bool) : ncyc m = if m then 7 else 5 := rfl

/-- The three ways a `SAMPLE` step ends (40_sequencer.md R109). -/
theorem State.sampleCycle_cases (c : Cycle) (s : State) :
    (c.val + 1 = ncyc s.mode6 ∧ s.sampleCycle c = .next (s.capture c).finishSampling) ∨
    (c.val + 1 ≠ ncyc s.mode6 ∧ ∃ h : c.val + 1 < 7,
      s.sampleCycle c = .next { s.capture c with cyc := ⟨c.val + 1, h⟩, ph := .drive }) ∨
    (c.val = 6 ∧ s.mode6 = false ∧ s.sampleCycle c = .refused .cycleSeven) := by
  have hc := c.isLt
  have hn : ncyc s.mode6 = 7 ∨ ncyc s.mode6 = 5 ∧ s.mode6 = false := by
    cases s.mode6 <;> simp [ncyc]
  by_cases h1 : c.val = ncyc s.mode6 - 1
  · exact .inl ⟨by omega, if_pos h1⟩
  · by_cases h2 : c.val + 1 < 7
    · exact .inr (.inl ⟨by omega, h2, (if_neg h1).trans (dif_pos h2)⟩)
    · rcases hn with hn | ⟨hn, hm⟩
      · omega
      · exact .inr (.inr ⟨by omega, hm, (if_neg h1).trans (dif_neg h2)⟩)

/-- A read of written entries goes on. -/
@[simp] theorem afterRead_ok (d : Decoded) (next : Decoded → State) :
    afterRead (.ok d) next = .next (next d) := rfl

/-- A read of an unwritten entry is the fault of 10_state.md R39. -/
@[simp] theorem afterRead_error (c : Cycle) (next : Decoded → State) :
    afterRead (.error c) next = .fault (.rawUnwritten c) := rfl

/-- The two ways a read of the sample buffer ends (10_state.md R39). -/
theorem afterRead_cases (r : Except Cycle Decoded) (next : Decoded → State) :
    (∃ d, r = .ok d ∧ afterRead r next = .next (next d)) ∨
    (∃ c, r = .error c ∧ afterRead r next = .fault (.rawUnwritten c)) := by
  cases r with
  | ok d => exact .inl ⟨d, rfl, rfl⟩
  | error c => exact .inr ⟨c, rfl, rfl⟩

/-- The two ways a `DECODE` step ends (43_session.md R164, 10_state.md R39). -/
theorem State.decodeStep_cases (s : State) :
    (∃ d, decodeSamples s.raw s.mode6 = .ok d ∧ s.decodeStep = .next (s.complete d)) ∨
    (∃ c, decodeSamples s.raw s.mode6 = .error c ∧ s.decodeStep = .fault (.rawUnwritten c)) := by
  exact afterRead_cases _ _

/-! The selection of a step and the step. -/

/-- What the sampled ports and the phase select (43_session.md R160). -/
theorem State.selectInstr_eq (s : State) :
    s.selectInstr =
      .ok (if s.inputs.rst then .reset
        else match s.ph with
          | .idle => if s.inputs.pollReq then .poll else .nop
          | .drive => .drive
          | .settle => .settle
          | .sample => .sample
          | .decode => .decode) := by
  unfold State.selectInstr State.selectedCode
  cases hr : s.inputs.rst <;> cases hp : s.inputs.pollReq <;> cases hph : s.ph <;>
    simp [hostCode, Phase.code, Sys2Proof.decode, decodeHost, decodePhase, hr, hp]

/-- One tick, in the shared operations (43_session.md R160). -/
theorem step_eq (s : State) :
    step s =
      if (s.inputAt 0).rst then .next s.sampleInputs.resetEngine
      else match s.ph with
        | .idle =>
          .next (if (s.inputAt 0).pollReq then s.sampleInputs.pollIdle else s.sampleInputs)
        | .drive => .next (s.sampleInputs.driveCycle s.cyc)
        | .settle => .next s.sampleInputs.settleTick
        | .sample => s.sampleInputs.sampleCycle s.cyc
        | .decode => s.sampleInputs.decodeStep := by
  unfold step
  rw [State.selectInstr_eq]
  simp only [State.sampleInputs_inputs, State.sampleInputs_ph, State.nextInputs_eq]
  cases hr : (s.inputAt 0).rst <;> cases hp : (s.inputAt 0).pollReq <;> cases hph : s.ph <;>
    simp [exec, execReset, execPoll, execNop, execDrive, execSettle, execSample, execDecode,
      State.phaseStep, hph]

/-- The two ways a `SETTLE` tick ends (40_sequencer.md R107). -/
theorem State.settleTick_cases (s : State) :
    (1 < s.sc.count ∧ s.settleTick = { s with sc := s.sc.dec }) ∨
    (s.sc.count ≤ 1 ∧
      s.settleTick = { s with sc := SettleCounter.zero s.sc.width, ph := .sample }) := by
  by_cases h : 1 < s.sc.count
  · exact .inl ⟨h, if_pos h⟩
  · exact .inr ⟨Nat.le_of_not_lt h, if_neg h⟩

/-- Everything a tick can do where it answers a next state: the ten ways, each with its guard. -/
theorem step_cases {s t : State} (h : step s = .next t) :
    ((s.inputAt 0).rst = true ∧ t = s.sampleInputs.resetEngine) ∨
    ((s.inputAt 0).rst = false ∧
      ((s.ph = .idle ∧ (s.inputAt 0).pollReq = false ∧ t = s.sampleInputs) ∨
       (s.ph = .idle ∧ (s.inputAt 0).pollReq = true ∧
         ((s.inputAt 0).nowMs - s.lastT).toNat < s.params.tMin ∧ t = s.sampleInputs.cachedReturn) ∨
       (s.ph = .idle ∧ (s.inputAt 0).pollReq = true ∧
         ¬((s.inputAt 0).nowMs - s.lastT).toNat < s.params.tMin ∧ t = s.sampleInputs.accept) ∨
       (s.ph = .drive ∧ t = s.sampleInputs.driveCycle s.cyc) ∨
       (s.ph = .settle ∧ 1 < s.sc.count ∧ t = { s.sampleInputs with sc := s.sc.dec }) ∨
       (s.ph = .settle ∧ s.sc.count ≤ 1 ∧
         t = { s.sampleInputs with sc := SettleCounter.zero s.sc.width, ph := .sample }) ∨
       (s.ph = .sample ∧ s.cyc.val + 1 = ncyc s.mode6 ∧
         t = (s.sampleInputs.capture s.cyc).finishSampling) ∨
       (s.ph = .sample ∧ s.cyc.val + 1 ≠ ncyc s.mode6 ∧ ∃ hc : s.cyc.val + 1 < 7,
         t = { s.sampleInputs.capture s.cyc with cyc := ⟨s.cyc.val + 1, hc⟩, ph := .drive }) ∨
       (s.ph = .decode ∧ ∃ d, decodeSamples s.raw s.mode6 = .ok d ∧
         t = s.sampleInputs.complete d))) := by
  rw [step_eq] at h
  cases hr : (s.inputAt 0).rst <;>
    simp only [hr, if_true, Bool.false_eq_true, if_false, Host.Outcome.next.injEq] at h
  swap
  · exact .inl ⟨rfl, h.symm⟩
  refine .inr ⟨rfl, ?_⟩
  cases hph : s.ph <;> simp only [hph, Host.Outcome.next.injEq] at h
  · cases hp : (s.inputAt 0).pollReq <;> simp only [hp, if_true, Bool.false_eq_true, if_false] at h
    · exact .inl ⟨rfl, rfl, h.symm⟩
    · rw [State.pollIdle_eq, State.sampleInputs_inputs, State.nextInputs_eq] at h
      by_cases hl : ((s.inputAt 0).nowMs - s.lastT).toNat < s.params.tMin
      · exact .inr (.inl ⟨rfl, rfl, hl, (h.symm.trans (if_pos hl))⟩)
      · exact .inr (.inr (.inl ⟨rfl, rfl, hl, (h.symm.trans (if_neg hl))⟩))
  · simp [h]
  · rcases s.sampleInputs.settleTick_cases with ⟨h1, h2⟩ | ⟨h1, h2⟩ <;> rw [h2] at h
    · simp at h1; simp [h1, ← h]
    · simp at h1; simp [h1, ← h]
  · rcases State.sampleCycle_cases s.cyc s.sampleInputs with ⟨h1, h2⟩ | ⟨h1, h3, h2⟩ | ⟨_, _, h2⟩ <;>
      rw [h2] at h
    · injection h with h; simp at h1; simp [h1, ← h]
    · injection h with h; simp at h1; simp [h1, h3, ← h]
    · cases h
  · rcases State.decodeStep_cases s.sampleInputs with ⟨d, h1, h2⟩ | ⟨c, h1, h2⟩ <;> rw [h2] at h
    · injection h with h; simp at h1; simp [h1, ← h]
    · cases h

/-! The adapter calls. -/

/-- The calls of a step are those of the events it adds (60_exceptions.md R193). -/
theorem stepCalls_of_trace {s t : State} {evs : List Event} (h : t.trace = s.trace ++ evs) :
    stepCalls s t = adapterCalls s.params.selImpl s.sel evs := by
  rw [stepCalls, h, List.drop_left]

/-- A select write brings the pin to its level in both realisations (40_sequencer.md R105). -/
theorem selectLevelAfter_selectCall (impl : SelImpl) (level l : Level) :
    selectLevelAfter level (selectCall impl level l).toList = l := by
  cases impl <;> cases level <;> cases l <;> rfl

/-! Runs. -/

/-- No tick. -/
@[simp] theorem run_zero (s : State) : run 0 s = .next s := rfl

/-- One tick, then the rest. -/
theorem run_succ (n : Nat) (s : State) :
    run (n + 1) s =
      match step s with
      | .next t => run n t
      | .fault r => .fault r
      | .refused r => .refused r := rfl

/-- A run of the host's interface, by the outcome of its first tick. -/
theorem core_run_of_step (M : Host.Core) (n : Nat) (s : M.State) :
    (∀ t, M.step s = .next t → M.run (n + 1) s = M.run n t) ∧
    (∀ e, M.step s = .fault e → M.run (n + 1) s = .fault e) ∧
    (∀ e, M.step s = .refused e → M.run (n + 1) s = .refused e) := by
  refine ⟨?_, ?_, ?_⟩ <;> intro _ h <;> simp only [Host.Core.run, h]

/-- The runs of the statements are the runs of the machine the host reads. -/
theorem run_eq_core_run (n : Nat) (s : State) : run n s = Host.Core.run Sys2Proof.core n s := by
  induction n generalizing s with
  | zero => rfl
  | succ n ih =>
    obtain ⟨hn, hf, hr⟩ := core_run_of_step Sys2Proof.core n s
    rw [run_succ]
    cases h : step s with
    | next t => exact (ih t).trans (hn t h).symm
    | fault e => exact (hf e h).symm
    | refused e => exact (hr e h).symm

/-- A run whose first tick is known. -/
theorem run_succ_of_step {n : Nat} {s t : State} (h : step s = .next t) : run (n + 1) s = run n t := by
  rw [run_succ, h]

/-- A run in two parts. -/
theorem run_add {m n : Nat} {s t : State} (h : run m s = .next t) : run (m + n) s = run n t := by
  induction m generalizing s with
  | zero =>
    rw [run_zero] at h
    injection h with h
    rw [h, Nat.zero_add]
  | succ m ih =>
    rw [Nat.succ_add, run_succ] at *
    cases hs : step s with
    | next u => rw [hs] at h; exact ih h
    | fault r => rw [hs] at h; cases h
    | refused r => rw [hs] at h; cases h

end Sys2Proof.Machine
end

