-- ==== Sys2Proof/Laws/Decoder.lean ====
section
/-! SUPPORT. One lemma per decoder half: what it answers where its entry is written, and where it is not
processed. -/

namespace Sys2Proof.Machine

open Sys2Proof

/-- A row of copies, its entry written (41_decoder.md R124 to R127). -/
theorem muxCopies_of_some {raw : RawBuffer} {c : Cycle} {v : Sample} (d : Decoded)
    (h : raw.entry c = some v) :
    muxCopies c raw d = .ok { d with w := copyLines (activate v) (cycleCopies c) d.w } := by
  simp only [muxCopies, RawBuffer.act_of_some h]

/-- A row of copies, its entry unwritten (10_state.md R39). -/
theorem muxCopies_of_none {raw : RawBuffer} {c : Cycle} (d : Decoded) (h : raw.entry c = none) :
    muxCopies c raw d = .error c := by
  simp only [muxCopies, RawBuffer.act_of_none h]

/-- `PRES` with its entry written (41_decoder.md R123). -/
theorem muxPres_of_some {raw : RawBuffer} {v : Sample} (h : raw.entry 1 = some v) :
    muxPres raw =
      .ok { w := setField 0x0000#16 .present (lineLow v 2 && lineLow v 3), mNew := false } := by
  simp only [muxPres, RawBuffer.act_of_some h, presenceProbe, Decoded.start,
    activate_getLsbD v 2 (by decide), activate_getLsbD v 3 (by decide)]

/-- `PRES` with its entry unwritten (10_state.md R39). -/
theorem muxPres_of_none {raw : RawBuffer} (h : raw.entry 1 = none) : muxPres raw = .error 1 := by
  simp only [muxPres, RawBuffer.act_of_none h]

/-- `MODEP` where present, its entry written (42_mode_detector.md R145). -/
theorem muxModep_of_some {raw : RawBuffer} {v : Sample} {d : Decoded}
    (hp : getField d.w .present = true) (h : raw.entry 4 = some v) :
    muxModep raw d =
      .ok { w := setField d.w .mode6 (lineLow v 0 && lineLow v 1),
            mNew := lineLow v 0 && lineLow v 1 } := by
  simp only [muxModep, hp, if_true, RawBuffer.act_of_some h, modeProbe,
    activate_getLsbD v 0 (by decide), activate_getLsbD v 1 (by decide)]

/-- `MODEP` where present, its entry unwritten (10_state.md R39). -/
theorem muxModep_of_none {raw : RawBuffer} {d : Decoded} (hp : getField d.w .present = true)
    (h : raw.entry 4 = none) : muxModep raw d = .error 4 := by
  simp only [muxModep, hp, if_true, RawBuffer.act_of_none h]

/-- `AST` and `DPAD` where present are their rows of copies (41_decoder.md R124, R125). -/
theorem muxAst_of_present {raw : RawBuffer} {d : Decoded} (hp : getField d.w .present = true) :
    muxAst raw d = muxCopies 2 raw d := if_pos hp

theorem muxDpad_of_present {raw : RawBuffer} {d : Decoded} (hp : getField d.w .present = true) :
    muxDpad raw d = muxCopies 3 raw d := if_pos hp

/-- Without presence nothing after `PRES` is processed (41_decoder.md R129). -/
theorem mux_of_absent {d : Decoded} (raw : RawBuffer) (mIn : Bool)
    (hp : getField d.w .present = false) :
    muxAst raw d = .ok d ∧ muxDpad raw d = .ok d ∧ muxModep raw d = .ok d ∧
      muxXyzm raw mIn d = .ok d ∧ muxHome raw mIn d = .ok d := by
  simp [muxAst, muxDpad, muxModep, muxXyzm, muxHome, extrasDecoded, hp]

/-- Cycles 5 and 6 under the condition of 41_decoder.md R128. -/
theorem muxXyzm_of_extras {raw : RawBuffer} {mIn : Bool} {d : Decoded}
    (h : extrasDecoded mIn d = true) : muxXyzm raw mIn d = muxCopies 5 raw d := if_pos h

theorem muxHome_of_extras {raw : RawBuffer} {mIn : Bool} {d : Decoded}
    (h : extrasDecoded mIn d = true) : muxHome raw mIn d = muxCopies 6 raw d := if_pos h

/-- Cycles 5 and 6 without it. -/
theorem mux_of_no_extras {d : Decoded} (raw : RawBuffer) {mIn : Bool}
    (h : extrasDecoded mIn d = false) : muxXyzm raw mIn d = .ok d ∧ muxHome raw mIn d = .ok d := by
  simp [muxXyzm, muxHome, h]

/-- The whole function as a chain (41_decoder.md R134). -/
theorem decodeSamples_eq (raw : RawBuffer) (mIn : Bool) :
    decodeSamples raw mIn =
      (((((muxPres raw).bind (muxAst raw)).bind (muxDpad raw)).bind (muxModep raw)).bind
        (muxXyzm raw mIn)).bind (fun d =>
          (muxHome raw mIn d).bind fun d => .ok { d with w := enforce d.w }) := by
  unfold decodeSamples
  simp only [bind, Except.bind, pure, Except.pure]
  cases muxPres raw with
  | error e => rfl
  | ok d =>
    dsimp only
    cases muxAst raw d with
    | error e => rfl
    | ok d =>
      dsimp only
      cases muxDpad raw d with
      | error e => rfl
      | ok d =>
        dsimp only
        cases muxModep raw d with
        | error e => rfl
        | ok d => rfl

/-- Binding a value. -/
theorem bind_ok {ε α β : Type} (a : α) (f : α → Except ε β) : (Except.ok a).bind f = f a := rfl

/-- Binding an error. -/
theorem bind_error {ε α β : Type} (e : ε) (f : α → Except ε β) :
    (Except.error e : Except ε α).bind f = .error e := rfl

/-- The word after `PRES`, `AST` and `DPAD` where present. -/
def presentWord (v2 v3 : Sample) : Word :=
  copyLines (activate v3) (cycleCopies 3)
    (copyLines (activate v2) (cycleCopies 2) (setField 0x0000#16 .present true))

/-- The word after `XYZM` and `HOME`. -/
def extraWord (v5 v6 : Sample) (w : Word) : Word :=
  copyLines (activate v6) (cycleCopies 6) (copyLines (activate v5) (cycleCopies 5) w)

/-- The fields of the word after `AST` and `DPAD`. -/
theorem presentWord_present (v2 v3 : Sample) : getField (presentWord v2 v3) .present = true := by
  simp [presentWord, copyLines, cycleCopies]

/-- Everything `decode(RAW, m_in)` can answer: absent, present without the extra cycles, present with them,
or an error that names an unwritten entry of the poll (41_decoder.md R134, 10_state.md R39). -/
theorem decodeSamples_cases (raw : RawBuffer) (mIn : Bool) :
    (∃ v1, raw.entry 1 = some v1 ∧ (lineLow v1 2 && lineLow v1 3) = false ∧
      decodeSamples raw mIn = .ok { w := 0x0000#16, mNew := false }) ∨
    (∃ v1 v2 v3 v4, raw.entry 1 = some v1 ∧ raw.entry 2 = some v2 ∧
      raw.entry 3 = some v3 ∧ raw.entry 4 = some v4 ∧
      (lineLow v1 2 && lineLow v1 3) = true ∧ (mIn && (lineLow v4 0 && lineLow v4 1)) = false ∧
      decodeSamples raw mIn =
        .ok { w := enforce (setField (presentWord v2 v3) .mode6 (lineLow v4 0 && lineLow v4 1)),
              mNew := lineLow v4 0 && lineLow v4 1 }) ∨
    (∃ v1 v2 v3 v4 v5 v6, raw.entry 1 = some v1 ∧ raw.entry 2 = some v2 ∧
      raw.entry 3 = some v3 ∧ raw.entry 4 = some v4 ∧ raw.entry 5 = some v5 ∧
      raw.entry 6 = some v6 ∧
      (lineLow v1 2 && lineLow v1 3) = true ∧ (mIn && (lineLow v4 0 && lineLow v4 1)) = true ∧
      decodeSamples raw mIn =
        .ok { w := enforce (extraWord v5 v6 (setField (presentWord v2 v3) .mode6 true)),
              mNew := true }) ∨
    (∃ c : Cycle, raw.entry c = none ∧ 1 ≤ c.val ∧ c.val < ncyc mIn ∧ decodeSamples raw mIn = .error c) := by
  have hlow : ∀ k, k < 5 → k < ncyc mIn := by intro k hk; cases mIn <;> simp [ncyc] <;> omega
  rcases h1 : raw.entry 1 with _ | v1
  · refine .inr (.inr (.inr ⟨1, h1, by decide, hlow _ (by decide), ?_⟩))
    rw [decodeSamples_eq, muxPres_of_none h1]
    rfl
  cases hp : lineLow v1 2 && lineLow v1 3
  · left
    refine ⟨v1, rfl, hp, ?_⟩
    have hw : getField (setField 0x0000#16 .present false) .present = false := by simp
    obtain ⟨m2, m3, m4, m5, m6⟩ :=
      mux_of_absent (d := ⟨setField 0x0000#16 .present false, false⟩) raw mIn hw
    simp only [decodeSamples_eq, muxPres_of_some h1, hp, bind_ok, m2, m3, m4, m5, m6]
    rfl
  have m2 := muxAst_of_present (raw := raw) (d := ⟨setField 0x0000#16 .present true, false⟩) (by simp)
  rcases h2 : raw.entry 2 with _ | v2
  · refine .inr (.inr (.inr ⟨2, h2, by decide, hlow _ (by decide), ?_⟩))
    simp only [decodeSamples_eq, muxPres_of_some h1, hp, bind_ok, bind_error, m2,
      muxCopies_of_none _ h2]
  have m3 := muxDpad_of_present (raw := raw)
    (d := ⟨copyLines (activate v2) (cycleCopies 2) (setField 0x0000#16 .present true), false⟩)
    (by simp [copyLines, cycleCopies])
  rcases h3 : raw.entry 3 with _ | v3
  · refine .inr (.inr (.inr ⟨3, h3, by decide, hlow _ (by decide), ?_⟩))
    simp only [decodeSamples_eq, muxPres_of_some h1, hp, bind_ok, bind_error, m2, m3,
      muxCopies_of_some _ h2, muxCopies_of_none _ h3]
  have e1 := presentWord_present v2 v3
  have hpw : copyLines (activate v3) (cycleCopies 3)
      (copyLines (activate v2) (cycleCopies 2) (setField 0x0000#16 .present true)) =
      presentWord v2 v3 := rfl
  rcases h4 : raw.entry 4 with _ | v4
  · have m4 := muxModep_of_none (raw := raw) (d := ⟨presentWord v2 v3, false⟩) e1 h4
    refine .inr (.inr (.inr ⟨4, h4, by decide, hlow _ (by decide), ?_⟩))
    simp only [decodeSamples_eq, muxPres_of_some h1, hp, bind_ok, bind_error, m2, m3,
      muxCopies_of_some _ h2, muxCopies_of_some _ h3, hpw, m4]
  have m4 := muxModep_of_some (raw := raw) (d := ⟨presentWord v2 v3, false⟩) e1 h4
  cases he : mIn && (lineLow v4 0 && lineLow v4 1)
  · refine .inr (.inl ⟨v1, v2, v3, v4, rfl, rfl, rfl, rfl, hp, he, ?_⟩)
    have hx : extrasDecoded mIn
        ⟨setField (presentWord v2 v3) .mode6 (lineLow v4 0 && lineLow v4 1),
          lineLow v4 0 && lineLow v4 1⟩ = false := by
      simp only [extrasDecoded, getField_setField, e1, if_neg (show Field.present ≠ .mode6 by decide),
        Bool.true_and, he]
    obtain ⟨m5, m6⟩ := mux_of_no_extras raw hx
    simp only [decodeSamples_eq, muxPres_of_some h1, hp, bind_ok, m2, m3, muxCopies_of_some _ h2,
      muxCopies_of_some _ h3, hpw, m4, m5, m6]
  obtain ⟨hmi, hm⟩ : mIn = true ∧ (lineLow v4 0 && lineLow v4 1) = true := by
    revert he; cases mIn <;> simp
  rw [hm] at m4
  have hx : extrasDecoded mIn ⟨setField (presentWord v2 v3) .mode6 true, true⟩ = true := by
    simp [extrasDecoded, e1, hmi]
  rcases h5 : raw.entry 5 with _ | v5
  · refine .inr (.inr (.inr ⟨5, h5, by decide, by rw [hmi]; decide, ?_⟩))
    simp only [decodeSamples_eq, muxPres_of_some h1, hp, bind_ok, bind_error, m2, m3,
      muxCopies_of_some _ h2, muxCopies_of_some _ h3, hpw, m4, muxXyzm_of_extras hx,
      muxCopies_of_none _ h5]
  have hx' : extrasDecoded mIn
      ⟨copyLines (activate v5) (cycleCopies 5) (setField (presentWord v2 v3) .mode6 true), true⟩ =
      true := by
    simp [extrasDecoded, e1, hmi, copyLines, cycleCopies]
  rcases h6 : raw.entry 6 with _ | v6
  · refine .inr (.inr (.inr ⟨6, h6, by decide, by rw [hmi]; decide, ?_⟩))
    simp only [decodeSamples_eq, muxPres_of_some h1, hp, bind_ok, bind_error, m2, m3,
      muxCopies_of_some _ h2, muxCopies_of_some _ h3, hpw, m4, muxXyzm_of_extras hx,
      muxCopies_of_some _ h5, muxHome_of_extras hx', muxCopies_of_none _ h6]
  refine .inr (.inr (.inl ⟨v1, v2, v3, v4, v5, v6, rfl, rfl, rfl, rfl, rfl, rfl, hp, he, ?_⟩))
  simp only [decodeSamples_eq, muxPres_of_some h1, hp, bind_ok, m2, m3, muxCopies_of_some _ h2,
    muxCopies_of_some _ h3, hpw, m4, muxXyzm_of_extras hx, muxCopies_of_some _ h5,
    muxHome_of_extras hx', muxCopies_of_some _ h6]
  rfl

/-- The cycles of a poll are those below its cycle count (40_sequencer.md R103). -/
theorem mem_pollCycles (m : Bool) (c : Cycle) : c ∈ pollCycles m ↔ c.val < ncyc m := by
  revert m c
  decide

/-- The atomic summary never stops: a poll has written every entry its decode reads (10_state.md R27, R39). -/
theorem State.pollSummary_completes (t0 t1 : Time) (samples : Vector Sample 7) (s : State) :
    ∃ t, s.pollSummary t0 t1 samples = .next t := by
  unfold State.pollSummary
  split
  · exact ⟨_, rfl⟩
  · rcases afterRead_cases (decodeSamples (RawBuffer.fill samples (pollCycles s.mode6) s.raw) s.mode6) _
      with ⟨d, _, h⟩ | ⟨c, hd, _⟩
    · exact ⟨_, h⟩
    · exfalso
      rcases decodeSamples_cases (RawBuffer.fill samples (pollCycles s.mode6) s.raw) s.mode6 with
        ⟨_, _, _, h⟩ | ⟨_, _, _, _, _, _, _, _, _, _, h⟩ |
        ⟨_, _, _, _, _, _, _, _, _, _, _, _, _, _, h⟩ | ⟨e, hn, _, hlt, _⟩
      · simp [h] at hd
      · simp [h] at hd
      · simp [h] at hd
      · have hs := RawBuffer.isSome_fill samples (pollCycles s.mode6) s.raw e
          (.inl ((mem_pollCycles _ _).2 hlt))
        rw [hn] at hs
        cases hs

end Sys2Proof.Machine
end

