-- ==== Sys2Proof/Laws/PerInstr.lean ====
section
/-! SUPPORT. The family `Codes`: one statement per operation about its codes, made constructor by
constructor. -/

namespace Sys2Proof.Laws.Codes

open Sys2Proof

/-- An operation has a code; all its codes belong to its format and are well formed (30_encoding.md R70 to
R74), and the encoder writes one of them. -/
def Statement (i : Instr) : Prop :=
  encode i ∈ codesOf i ∧ ∀ c ∈ codesOf i, c.format = i.format ∧ c.wf = true

theorem reset : Statement .reset := by unfold Statement; decide
theorem poll : Statement .poll := by unfold Statement; decide
theorem nop : Statement .nop := by unfold Statement; decide
theorem idle : Statement .idle := by unfold Statement; decide
theorem drive : Statement .drive := by unfold Statement; decide
theorem settle : Statement .settle := by unfold Statement; decide
theorem sample : Statement .sample := by unfold Statement; decide
theorem decode : Statement .decode := by unfold Statement; decide
theorem lead : Statement .lead := by unfold Statement; decide
theorem pres : Statement .pres := by unfold Statement; decide
theorem ast : Statement .ast := by unfold Statement; decide
theorem dpad : Statement .dpad := by unfold Statement; decide
theorem modep : Statement .modep := by unfold Statement; decide
theorem xyzm : Statement .xyzm := by unfold Statement; decide
theorem home : Statement .home := by unfold Statement; decide

end Sys2Proof.Laws.Codes
end

