-- ==== Sys2Proof/Laws/Runs.lean ====
section
/-! SUPPORT. A run of several ticks: the settle wait. -/

namespace Sys2Proof.Machine

open Sys2Proof

/-- A settle tick that does not end the wait (40_sequencer.md R107). -/
theorem step_settle {s : State} (hph : s.ph = .settle) (hsc : 1 < s.sc.count)
    (hr : (s.inputAt 0).rst = false) : step s = .next { s.sampleInputs with sc := s.sc.dec } := by
  rw [step_eq]
  simp only [hph, hr, Bool.false_eq_true, if_false]
  exact congrArg Host.Outcome.next (if_pos hsc)

/-- `k` ticks of the settle wait that do not end it: the counter is lower by `k` at the same width, and
beside it only the model's port fields have moved on (40_sequencer.md R107). -/
theorem run_settle (k m : Nat) (s : State) (hph : s.ph = .settle) (hsc : s.sc.count = m + k + 1)
    (hr : ∀ j, j < k → (s.inputAt j).rst = false) :
    ∃ t, run k s = .next t ∧ t.sc.count = m + 1 ∧ t.sc.width = s.sc.width ∧
      t = { s with
        sc := t.sc, inputs := t.inputs, pending := s.pending.drop k, ticks := s.ticks + k } := by
  induction k generalizing s with
  | zero => exact ⟨s, rfl, hsc, rfl, by simp⟩
  | succ k ih =>
    have hs := step_settle hph (by omega) (hr 0 (by omega))
    have hi : ∀ j, ({ s.sampleInputs with sc := s.sc.dec } : State).inputAt j = s.inputAt (j + 1) := by
      intro j
      rw [← State.inputAt_sampleInputs]
      apply State.inputAt_congr <;> rfl
    obtain ⟨t, ht, hc, hw, he⟩ := ih { s.sampleInputs with sc := s.sc.dec } hph
      (by
        show s.sc.dec.count = _
        rw [SettleCounter.count_dec (by omega)]
        omega)
      (by
        intro j hj
        rw [hi]
        exact hr _ (by omega))
    refine ⟨t, by rw [run_succ_of_step hs]; exact ht, hc, hw, ?_⟩
    rw [he]
    simp [State.sampleInputs]
    omega

end Sys2Proof.Machine
end

