-- ==== Sys2Proof/Tests/Slice0.lean ====
section
/-! SUPPORT. Tests against the numbers of spec/95_test_vectors.md and the examples of the rules, and one
witness for each statement that has hypotheses. -/

namespace Sys2Proof.Tests

open Sys2Proof Sys2Proof.Machine

/-! Helpers. -/

/-- Four port values. -/
def ports (rst pollReq : Bool) (now : Time) (lines : Sample) : Inputs :=
  { rst := rst, pollReq := pollReq, nowMs := now, lines := lines }

/-- Parameters with a clock of 16 MHz, as the example of 70_reset_and_hazards.md R216 has it. -/
def paramsOf (nSettle tMin : Nat) : Params :=
  { nSettle := nSettle, tMin := tMin, fClk := 16000000, pull := .internal, selImpl := .explicitLevel }

/-- A two-bit settle counter, the width of `N_SETTLE = 2`. -/
def counter (n : Nat) : SettleCounter := { width := 2, value := BitVec.ofNat 2 n }

/-- The reset state with `N_SETTLE = 2` and `T_MIN = 3`, as 95_test_vectors.md 2.1 has them. -/
def small : State :=
  { State.reset with params := paramsOf 2 3, sc := SettleCounter.zero (paramsOf 2 3).scWidth }

/-- `small` with given sampled ports. -/
def at' (i : Inputs) : State := { small with inputs := i }

/-- `small` with the ports of the next tick settled. -/
def upcoming (i : Inputs) : State := { small with pending := [i] }

/-- `small` in a phase, at a cycle. -/
def busyAt (ph : Phase) (c : Cycle) : State := { small with ph := ph, cyc := c, im := true }

/-- A sample buffer with entries 1 to 6 as given, entry 0 all high. -/
def buffer (v1 v2 v3 v4 v5 v6 : Sample) : RawBuffer :=
  { values := #v[0x3F#6, v1, v2, v3, v4, v5, v6], written := #v[true, true, true, true, true, true, true] }

/-- A state in `DECODE` with a buffer, a word and a belief. -/
def decoding (raw : RawBuffer) (w : Word) (m : Bool) : State :=
  { small with ph := .decode, raw := raw, word := w, mode6 := m, cyc := if m then 6 else 4 }

/-- Whether a result is a next state of which a test holds. -/
def nextHas (r : Result) (p : State → Bool) : Bool :=
  match r with
  | .next t => p t
  | _ => false

/-- The word and the belief that the decoder answers. -/
def decoded (m : Bool) (v1 v2 v3 v4 v5 v6 : Sample) : Option (Word × Bool) :=
  match decodeSamples (buffer v1 v2 v3 v4 v5 v6) m with
  | .ok d => some (d.w, d.mNew)
  | .error _ => none

/-! Well-formedness: every check refuses an ill-formed term. -/

theorem test_wf_codes :
    Code.wf ⟨.host, 0b11#8⟩ = true ∧ Code.wf ⟨.phase, 0b100#8⟩ = true ∧
      Code.wf ⟨.cyc, 0b110#8⟩ = true := by decide

theorem test_wf_too_wide :
    Code.wf ⟨.host, 0b100#8⟩ = false ∧ Code.wf ⟨.phase, 0b1000#8⟩ = false ∧
      Code.wf ⟨.cyc, 0b1000#8⟩ = false := by decide

theorem test_wf_reserved : Code.wf ⟨.phase, 0b101#8⟩ = false ∧ Code.wf ⟨.cyc, 0b111#8⟩ = false := by
  decide

theorem test_wf_params :
    Params.wf (paramsOf 1 3) ∧ ¬Params.wf (paramsOf 0 3) ∧ ¬Params.wf (paramsOf 1 2) := by decide

/-- 30_encoding.md R85: `k >= 1`, and a trace that writes another number of samples is ill-formed. -/
theorem test_wf_lines :
    Line.wf false (.nop 1) = true ∧ Line.wf false (.nop 0) = false ∧
      Line.wf false (.poll 3 3 [0x3F#6, 0x33#6, 0x2F#6, 0x3E#6, 0x3F#6]) = true ∧
      Line.wf true (.poll 3 3 [0x3F#6, 0x33#6, 0x2F#6, 0x3E#6, 0x3F#6]) = false := by decide

/-! Decoding: every constructor by a word written out from 30_encoding.md R71, R72, R74. -/

theorem test_decode_host :
    decode ⟨.host, 0b00000010#8⟩ = .ok .reset ∧ decode ⟨.host, 0b00000011#8⟩ = .ok .reset ∧
      decode ⟨.host, 0b00000001#8⟩ = .ok .poll ∧ decode ⟨.host, 0b00000000#8⟩ = .ok .nop := by decide

theorem test_decode_phase :
    decode ⟨.phase, 0b00000000#8⟩ = .ok .idle ∧ decode ⟨.phase, 0b00000001#8⟩ = .ok .drive ∧
      decode ⟨.phase, 0b00000010#8⟩ = .ok .settle ∧ decode ⟨.phase, 0b00000011#8⟩ = .ok .sample ∧
      decode ⟨.phase, 0b00000100#8⟩ = .ok .decode := by decide

theorem test_decode_cyc :
    decode ⟨.cyc, 0b00000000#8⟩ = .ok .lead ∧ decode ⟨.cyc, 0b00000001#8⟩ = .ok .pres ∧
      decode ⟨.cyc, 0b00000010#8⟩ = .ok .ast ∧ decode ⟨.cyc, 0b00000011#8⟩ = .ok .dpad ∧
      decode ⟨.cyc, 0b00000100#8⟩ = .ok .modep ∧ decode ⟨.cyc, 0b00000101#8⟩ = .ok .xyzm ∧
      decode ⟨.cyc, 0b00000110#8⟩ = .ok .home := by decide

theorem test_decode_refuses :
    decode ⟨.phase, 0b00000101#8⟩ = .error (.reservedPhase 5) ∧
      decode ⟨.cyc, 0b00000111#8⟩ = .error (.reservedCycle 7) ∧
      decode ⟨.host, 0b00000100#8⟩ = .error (.codeTooWide .host 4) := by decide

theorem test_decode_table_word :
    decodeTableWord 2 0b01 = some .poll ∧ decodeTableWord 3 0b011 = some .sample ∧
      decodeTableWord 3 0b110 = some .home ∧ decodeTableWord 8 0b101 = some .xyzm ∧
      decodeTableWord 8 0b111 = none := by decide

/-! The step and the host operations. -/

/-- 95_test_vectors.md 2.6, row 2. -/
theorem test_reset_mid_poll :
    nextHas (exec .reset { busyAt .settle 3 with sc := counter 2, sel := false, word := 0x0045#16 })
      (fun t => t.ph == .idle && t.word == 0x0000#16 && t.sel && !t.im && t.cyc == 0 && t.sc == counter 0 &&
        t.trace == []) = true := by decide

/-- 70_reset_and_hazards.md R200: `RESET` with the state already at its reset values changes nothing. -/
theorem test_reset_repeats : exec .reset State.reset = .next State.reset := rfl

/-- 95_test_vectors.md 2.6, row 3: `RESET` wins over a request. -/
theorem test_reset_wins :
    nextHas (step (upcoming (ports true true 9 0x3F#6))) (fun t => t.ph == .idle && t.trace == []) = true := by
  decide

/-- 95_test_vectors.md 2.5, S4 and S5. -/
theorem test_poll_limit :
    nextHas (exec .poll { at' (ports false true 12 0x3F#6) with lastT := 10, word := 0x0045#16 })
        (fun t => t.ph == .idle && t.trace == [.ret 0x0045#16]) = true ∧
      nextHas (exec .poll { at' (ports false true 13 0x3F#6) with lastT := 10 })
        (fun t => t.ph == .drive && t.im && t.trace == [.maskOn]) = true := by decide

/-- 95_test_vectors.md 2.5, S7, S8 and S9. -/
theorem test_poll_wrap :
    nextHas (exec .poll { at' (ports false true 0 0x3F#6) with lastT := 0xFFFFFFFE#32 })
        (fun t => t.ph == .idle) = true ∧
      nextHas (exec .poll { at' (ports false true 1 0x3F#6) with lastT := 0xFFFFFFFE#32 })
        (fun t => t.ph == .drive) = true ∧
      nextHas (exec .poll { at' (ports false true 99 0x3F#6) with lastT := 100 })
        (fun t => t.ph == .drive) = true := by decide

/-- 43_session.md R165. -/
theorem test_nop_idle :
    exec .nop { small with word := 0x0003#16 } = .next { small with word := 0x0003#16 } := rfl

/-- 43_session.md R170: before `T_MIN` the reset value of the cache is answered. -/
theorem test_idle_request :
    nextHas (exec .idle (at' (ports false true 2 0x3F#6)))
        (fun t => t.ph == .idle && t.trace == [.ret 0x0000#16]) = true ∧
      nextHas (exec .idle (at' (ports false true 3 0x3F#6))) (fun t => t.ph == .drive) = true := by decide

/-! The phases. -/

/-- The example of 40_sequencer.md R106. -/
theorem test_drive_three :
    nextHas (exec .drive (busyAt .drive 3))
      (fun t => !t.sel && t.sc == counter 2 && t.ph == .settle && t.trace == [.selWrite false]) = true := by decide

/-- The last two ticks of the example of 40_sequencer.md R107. -/
theorem test_settle_ends :
    nextHas (exec .settle { busyAt .settle 0 with sc := counter 2 })
        (fun t => t.sc == counter 1 && t.ph == .settle) = true ∧
      nextHas (exec .settle { busyAt .settle 0 with sc := counter 1 })
        (fun t => t.sc == counter 0 && t.ph == .sample) = true := by decide

/-- The example of 40_sequencer.md R108. -/
theorem test_sample_captures :
    nextHas (exec .sample { busyAt .sample 1 with inputs := ports false false 5 0x33#6 })
      (fun t => t.raw.entry 1 == some 0x33#6 && t.raw.entry 2 == none && t.cyc == 2 && t.ph == .drive && t.im) =
      true := by decide

/-- The two examples of 40_sequencer.md R109. -/
theorem test_sample_last :
    nextHas (exec .sample (busyAt .sample 4)) (fun t => !t.im && t.ph == .decode && t.cyc == 4) = true ∧
      nextHas (exec .sample { busyAt .sample 4 with mode6 := true })
        (fun t => t.im && t.ph == .drive && t.cyc == 5) = true := by decide

/-- The example of 43_session.md R164 (Scenario B). -/
theorem test_decode_scenario_b :
    nextHas (exec .decode
        { decoding (buffer 0x33#6 0x2F#6 0x3E#6 0x3F#6 0x3F#6 0x3F#6) 0x0203#16 false with
          inputs := ports false false 20 0x00#6 })
      (fun t => t.word == 0x0045#16 && !t.mode6 && t.lastT == 20 && t.ph == .idle &&
        t.trace == [.ret 0x0045#16]) = true := by decide

/-- 10_state.md R39: the one fault, on a buffer of which no entry is written. -/
theorem test_decode_unwritten : exec .decode small = .fault (.rawUnwritten 1) := rfl

/-! The decoder: 95_test_vectors.md 2.3. -/

theorem test_vectors_absent :
    decoded false 0x3F#6 0x3F#6 0x3F#6 0x3F#6 0x3F#6 0x3F#6 = some (0x0000#16, false) ∧
      decoded true 0x3F#6 0x00#6 0x00#6 0x00#6 0x00#6 0x00#6 = some (0x0000#16, false) ∧
      decoded false 0x3B#6 0x2F#6 0x3E#6 0x3C#6 0x3F#6 0x3F#6 = some (0x0000#16, false) ∧
      decoded false 0x37#6 0x2F#6 0x3E#6 0x3C#6 0x3F#6 0x3F#6 = some (0x0000#16, false) := by decide

theorem test_vectors_three_button :
    decoded false 0x33#6 0x0F#6 0x0A#6 0x3F#6 0x3F#6 0x3F#6 = some (0x11D5#16, false) ∧
      decoded false 0x33#6 0x3F#6 0x35#6 0x3F#6 0x3F#6 0x3F#6 = some (0x0029#16, false) ∧
      decoded false 0x33#6 0x3F#6 0x23#6 0x3F#6 0x3F#6 0x3F#6 = some (0x0081#16, false) ∧
      decoded false 0x33#6 0x3F#6 0x38#6 0x3F#6 0x3F#6 0x3F#6 = some (0x0011#16, false) := by decide

theorem test_vectors_probe :
    decoded false 0x00#6 0x30#6 0x3F#6 0x00#6 0x3F#6 0x3F#6 = some (0x0003#16, true) ∧
      decoded false 0x33#6 0x3F#6 0x3F#6 0x3E#6 0x3F#6 0x3F#6 = some (0x0001#16, false) ∧
      decoded false 0x33#6 0x3F#6 0x3F#6 0x3D#6 0x3F#6 0x3F#6 = some (0x0001#16, false) ∧
      decoded false 0x00#6 0x00#6 0x00#6 0x00#6 0x00#6 0x00#6 = some (0x11C3#16, true) := by decide

theorem test_vectors_six_button :
    decoded true 0x33#6 0x3F#6 0x3F#6 0x3F#6 0x30#6 0x3E#6 = some (0x0001#16, false) ∧
      decoded true 0x33#6 0x3F#6 0x3F#6 0x3C#6 0x0F#6 0x01#6 = some (0x0003#16, true) ∧
      decoded true 0x33#6 0x0F#6 0x06#6 0x3C#6 0x30#6 0x3E#6 = some (0x7FE7#16, true) ∧
      decoded true 0x00#6 0x00#6 0x00#6 0x00#6 0x00#6 0x00#6 = some (0x7FC3#16, true) := by decide

/-- 95_test_vectors.md 2.2, the extra buttons one at a time. -/
theorem test_vectors_extras :
    decoded true 0x33#6 0x3F#6 0x3F#6 0x3C#6 0x3E#6 0x3F#6 = some (0x0803#16, true) ∧
      decoded true 0x33#6 0x3F#6 0x3F#6 0x3C#6 0x3D#6 0x3F#6 = some (0x0403#16, true) ∧
      decoded true 0x33#6 0x3F#6 0x3F#6 0x3C#6 0x3B#6 0x3F#6 = some (0x0203#16, true) ∧
      decoded true 0x33#6 0x3F#6 0x3F#6 0x3C#6 0x37#6 0x3F#6 = some (0x2003#16, true) ∧
      decoded true 0x33#6 0x3F#6 0x3F#6 0x3C#6 0x3F#6 0x3E#6 = some (0x4003#16, true) := by decide

/-! The cycle operations. -/

/-- 40_sequencer.md R110. -/
theorem test_lead :
    nextHas (exec .lead { busyAt .sample 0 with inputs := ports false false 5 0x00#6 })
      (fun t => t.raw.entry 0 == some 0x00#6 && t.cyc == 1 && t.word == 0x0000#16) = true := by decide

/-- The examples of 41_decoder.md R123. -/
theorem test_pres :
    nextHas (exec .pres (decoding (buffer 0x33#6 0 0 0 0 0) 0x7FE7#16 false))
        (fun t => t.word == 0x0001#16) = true ∧
      nextHas (exec .pres (decoding (buffer 0x3B#6 0 0 0 0 0) 0x7FE7#16 false))
        (fun t => t.word == 0x0000#16) = true := by decide

/-- The examples of 41_decoder.md R124. -/
theorem test_ast :
    nextHas (exec .ast (decoding (buffer 0 0x2F#6 0 0 0 0) 0x0001#16 false))
        (fun t => t.word == 0x0041#16) = true ∧
      nextHas (exec .ast (decoding (buffer 0 0x0F#6 0 0 0 0) 0x0001#16 false))
        (fun t => t.word == 0x1041#16) = true := by decide

/-- The examples of 41_decoder.md R125, before the constraint enforcer. -/
theorem test_dpad :
    nextHas (exec .dpad (decoding (buffer 0 0 0x3E#6 0 0 0) 0x0001#16 false))
        (fun t => t.word == 0x0005#16) = true ∧
      nextHas (exec .dpad (decoding (buffer 0 0 0x00#6 0 0 0) 0x0001#16 false))
        (fun t => t.word == 0x01BD#16) = true := by decide

/-- The examples of 42_mode_detector.md R145. -/
theorem test_modep :
    nextHas (exec .modep (decoding (buffer 0 0 0 0x3C#6 0 0) 0x0001#16 false))
        (fun t => t.word == 0x0003#16) = true ∧
      nextHas (exec .modep (decoding (buffer 0 0 0 0x3E#6 0 0) 0x0001#16 false))
        (fun t => t.word == 0x0001#16) = true := by decide

/-- The example of 41_decoder.md R126, and R128 with the belief false. -/
theorem test_xyzm :
    nextHas (exec .xyzm (decoding (buffer 0 0 0 0 0x3B#6 0) 0x0003#16 true))
        (fun t => t.word == 0x0203#16) = true ∧
      nextHas (exec .xyzm (decoding (buffer 0 0 0 0 0x3B#6 0) 0x0003#16 false))
        (fun t => t.word == 0x0003#16) = true := by decide

/-- The examples of 41_decoder.md R127. -/
theorem test_home :
    nextHas (exec .home (decoding (buffer 0 0 0 0 0 0x3E#6) 0x0003#16 true))
        (fun t => t.word == 0x4003#16) = true ∧
      nextHas (exec .home (decoding (buffer 0 0 0 0 0 0x3D#6) 0x0003#16 true))
        (fun t => t.word == 0x0003#16) = true := by decide

/-! Ports and notation. -/

/-- 95_test_vectors.md 2.1, tick 21: in the `DECODE` step `word_out` already carries the new word. -/
theorem test_word_out_in_decode :
    (decoding (buffer 0x33#6 0x2F#6 0x3E#6 0x3F#6 0 0) 0x0000#16 false).sampleInputs.busy = true ∧
      State.wordOut { decoding (buffer 0x33#6 0x2F#6 0x3E#6 0x3F#6 0 0) 0x0000#16 false with
        inputs := ports false false 5 0x3F#6 } = 0x0045#16 := by decide

/-- 95_test_vectors.md 2.1: with `N_SETTLE = 1` a 5-cycle poll takes 17 ticks and a 7-cycle poll 23. -/
theorem test_poll_ticks :
    pollTicks (paramsOf 1 3) false = 17 ∧ pollTicks (paramsOf 1 3) true = 23 ∧
      pollTicks (paramsOf 2 3) false = 22 := by decide

/-- The example of 70_reset_and_hazards.md R216: 569 and 407 ticks, the settle 5.0 microseconds. -/
theorem test_timing_example :
    pollTicks (paramsOf 79 3) true = 569 ∧ pollTicks (paramsOf 79 3) false = 407 ∧
      settleTime (paramsOf 79 3) = 5 / 1000000 := by
  refine ⟨by decide, by decide, ?_⟩
  norm_num [settleTime, ticksToSeconds, settleTicks, paramsOf]

/-- The events of the first two cycles of 95_test_vectors.md 2.1 as adapter calls, in both realisations of
60_exceptions.md R193: a toggle realisation does not toggle in cycle 0 (40_sequencer.md R105). -/
theorem test_adapter_calls :
    adapterCalls .explicitLevel true
        [.maskOn, .selWrite true, .sample 0 0x3F#6, .selWrite false, .sample 1 0x33#6] =
        [.suppressInterrupts, .writeLevel .select true, .readLevels, .writeLevel .select false,
          .readLevels] ∧
      adapterCalls .hardwareToggle true
        [.maskOn, .selWrite true, .sample 0 0x3F#6, .selWrite false, .sample 1 0x33#6] =
        [.suppressInterrupts, .readLevels, .toggleLevel .select, .readLevels] := by decide

/-- 60_exceptions.md R196, 43_session.md R169: a cached return makes no call. -/
theorem test_cached_calls :
    adapterCalls .explicitLevel true [.ret 0x0045#16] = [] ∧
      adapterCalls .hardwareToggle true [.ret 0x0045#16] = [] := by decide

/-- 00_scope.md R11: the least width that holds 79 is 7 bits, that of 1 is 1 bit. -/
theorem test_settle_width :
    (paramsOf 79 3).scWidth = 7 ∧ (paramsOf 2 3).scWidth = 2 ∧ (paramsOf 1 3).scWidth = 1 := by decide

/-- Placing every operation so that the next step runs it (log 12), on the select line and the phase it
leaves. -/
theorem test_placed_home :
    nextHas (step (small.withFetchWord 3 0b110)) (fun t => t.sel && t.cyc == 6 && t.ph == .settle) = true := by
  decide

/-- A placed `DECODE` reads what the ports hold (log 12): lines 2, 3 and 4 low give `PRESENT`, `A` and `B`,
LEFT and RIGHT exclude each other (41_decoder.md R123 to R125, R130). -/
theorem test_placed_decode :
    nextHas (step ((at' (ports false false 0 0x23#6)).withFetchWord 3 0b100)) (fun t => t.word == 0x00C1#16) =
      true := by
  decide

/-- It leaves a written entry as it is: entry 3 with line 0 low alone gives `UP` and no `B` (41_decoder.md R125). -/
theorem test_placed_decode_keeps :
    nextHas
        (step (({ at' (ports false false 0 0x23#6) with raw := RawBuffer.unspecified.write 3 0x3E#6 } : State).withFetchWord
          3 0b100))
        (fun t => t.word == 0x0045#16) =
      true := by
  decide

/-! Witnesses: for each statement with hypotheses, concrete values that meet them, clause by clause. -/

/-- The phases other than `IDLE` with `rst = 0` at the coming tick. -/
def busyUpcoming (ph : Phase) (c : Cycle) : State :=
  { busyAt ph c with pending := [ports false false 5 0x2A#6] }

theorem witness_StepRunsTheSelectedInstruction :
    (upcoming (ports false true 5 0x3F#6)).sampleInputs.selectInstr = .ok .poll ∧
      (busyUpcoming .sample 2).sampleInputs.selectInstr = .ok .sample := by
  exact ⟨rfl, rfl⟩

theorem witness_StepIsSelectedByPriority :
    ((upcoming (ports true true 5 0x3F#6)).inputAt 0).rst = true ∧
      (((upcoming (ports false true 5 0x3F#6)).inputAt 0).rst = false ∧
        (upcoming (ports false true 5 0x3F#6)).ph = .idle ∧
        ((upcoming (ports false true 5 0x3F#6)).inputAt 0).pollReq = true) ∧
      (((upcoming (ports false false 5 0x3F#6)).inputAt 0).rst = false ∧
        (upcoming (ports false false 5 0x3F#6)).ph = .idle ∧
        ((upcoming (ports false false 5 0x3F#6)).inputAt 0).pollReq = false) ∧
      ∀ ph ∈ [Phase.drive, .settle, .sample, .decode],
        ((busyUpcoming ph 0).inputAt 0).rst = false ∧ (busyUpcoming ph 0).ph = ph := by
  decide

theorem witness_SequencerStepIsTheCycleOperation :
    ∀ p ∈ cycleOperations, ∀ ph ∈ [Phase.drive, .settle, .sample],
      ((busyUpcoming ph p.2).inputAt 0).rst = false ∧ (busyUpcoming ph p.2).ph = ph ∧
        codesOf p.1 = [cycleCode (busyUpcoming ph p.2).cyc] := by
  decide

theorem witness_PlacedWordRunsNext :
    decodeTableWord 2 0 = some .nop ∧ decodeTableWord 3 7 = none ∧ decodeTableWord 3 6 = some .home ∧
      decodeTableWord 8 5 = some .xyzm := by
  decide

theorem witness_ResetDiscardsAPollInProgress :
    ({ busyAt .settle 3 with pending := [ports true true 5 0x3F#6] } : State).ph ≠ .idle ∧
      (({ busyAt .settle 3 with pending := [ports true true 5 0x3F#6] } : State).inputAt 0).rst = true := by
  decide

/-- Both sides of the strict comparison. -/
theorem witness_PollIsCachedOrAccepted :
    (at' (ports false true 2 0x3F#6)).ph = .idle ∧ (at' (ports false true 2 0x3F#6)).rateLimited = true ∧
      (at' (ports false true 3 0x3F#6)).ph = .idle ∧ (at' (ports false true 3 0x3F#6)).rateLimited = false := by
  decide

theorem witness_CachedReturnAnswersWithTheWord :
    (at' (ports false true 2 0x3F#6)).ph = .idle ∧ (at' (ports false true 2 0x3F#6)).inputs.rst = false ∧
      (at' (ports false true 2 0x3F#6)).inputs.pollReq = true ∧
      ((at' (ports false true 2 0x3F#6)).inputs.nowMs - (at' (ports false true 2 0x3F#6)).lastT).toNat <
        (at' (ports false true 2 0x3F#6)).params.tMin := by
  decide

theorem witness_PollRequestWhileBusyIsIgnored :
    ∀ ph ∈ [Phase.drive, .settle, .sample, .decode],
      (busyAt ph 1).ph ≠ .idle ∧ (ports false false 5 0x3F#6).rst = false := by
  decide

theorem witness_NopIsThePhasesOwnStep :
    ((at' (ports false false 5 0x3F#6)).ph = .idle ∧ (at' (ports false false 5 0x3F#6)).inputs.rst = false ∧
      (at' (ports false false 5 0x3F#6)).inputs.pollReq = false) ∧
      (busyAt .drive 1).ph = .drive ∧ (busyAt .settle 1).ph = .settle ∧
      (busyAt .sample 1).ph = .sample ∧ (busyAt .decode 1).ph = .decode := by
  decide

/-- The least `N_SETTLE`, and `N_SETTLE = 2`. -/
theorem witness_SettleLastsExactlyNSettleTicks :
    ∀ n ∈ [1, 2],
      (({ busyAt .drive 3 with
          params := paramsOf n 3, pending := List.replicate 3 (ports false false 5 0x3F#6) } : State).ph = .drive ∧
        1 ≤ n ∧
        ∀ j, j ≤ n →
          (({ busyAt .drive 3 with
            params := paramsOf n 3, pending := List.replicate 3 (ports false false 5 0x3F#6) } : State).inputAt
              j).rst = false) := by
  decide

/-- The last cycle in both modes, and the cycle before it. -/
theorem witness_SampleCapturesThenAdvancesOrFinishes :
    ((busyAt .sample 4).cyc.val + 1 = if (busyAt .sample 4).mode6 then 7 else 5) ∧
      (({ busyAt .sample 6 with mode6 := true } : State).cyc.val + 1 = 7) ∧
      ((busyAt .sample 3).cyc.val + 1 ≠ if (busyAt .sample 3).mode6 then 7 else 5) ∧
      (busyAt .sample 3).cyc.val + 1 < 7 := by
  decide

theorem witness_IndexSevenIsRefused :
    (busyAt .sample 6).cyc.val = 6 ∧ (busyAt .sample 6).mode6 = false ∧ (busyAt .sample 6).ph = .sample ∧
      (({ busyAt .sample 6 with
          mode6 := true, word := 0x0003#16, raw := buffer 0 0 0 0 0 0 } : State).Inv) :=
  ⟨by decide, by decide, by decide,
    ⟨by decide, by decide, by decide, by decide, by decide, by decide, by decide, by decide⟩⟩

theorem witness_CycleOperationsDriveAndSettle :
    cycleOperations.length = 7 ∧ (busyAt .drive 0).ph = .drive ∧ (busyAt .settle 0).ph = .settle := by
  decide

theorem witness_CycleOperationsCaptureTheirEntry :
    (Instr.modep, 4) ∈ cycleOperations ∧ (Instr.home, 6) ∈ cycleOperations ∧
      (busyAt .sample 4).ph = .sample ∧ (busyAt .sample 4).mode6 = false ∧
      ({ busyAt .sample 6 with mode6 := true } : State).mode6 = true := by
  decide

theorem witness_CycleOperationsOutsideACycle :
    (Instr.lead, 0) ∈ cycleOperations ∧ small.ph = .idle ∧ (busyAt .decode 4).ph = .decode := by
  decide

/-- A buffer and a word that meet the hypotheses of the six decoder halves. -/
def halves (m : Bool) : State :=
  decoding (buffer 0x33#6 0x0F#6 0x06#6 0x3C#6 0x30#6 0x3E#6) 0x0003#16 m

theorem witness_PresStartsTheWord :
    (halves true).ph = .decode ∧ (halves true).raw.entry 1 = some 0x33#6 := by decide

theorem witness_AstWritesAAndStart :
    (halves true).ph = .decode ∧ getField (halves true).word .present = true ∧
      (halves true).raw.entry 2 = some 0x0F#6 ∧
      (busyAt .decode 4).ph = .decode ∧ getField (busyAt .decode 4).word .present = false := by decide

theorem witness_DpadWritesSixButtons :
    (halves true).ph = .decode ∧ getField (halves true).word .present = true ∧
      (halves true).raw.entry 3 = some 0x06#6 ∧
      (busyAt .decode 4).ph = .decode ∧ getField (busyAt .decode 4).word .present = false := by decide

theorem witness_ModepWritesTheProbe :
    (halves true).ph = .decode ∧ getField (halves true).word .present = true ∧
      (halves true).raw.entry 4 = some 0x3C#6 ∧
      (busyAt .decode 4).ph = .decode ∧ getField (busyAt .decode 4).word .present = false := by decide

theorem witness_XyzmWritesFourButtons :
    (halves true).ph = .decode ∧ (halves true).raw.entry 5 = some 0x30#6 ∧
      (getField (halves true).word .present && (halves true).mode6 &&
        getField (halves true).word .mode6) = true ∧
      (halves false).ph = .decode ∧
      (getField (halves false).word .present && (halves false).mode6 &&
        getField (halves false).word .mode6) = false := by decide

theorem witness_HomeWritesHome :
    (halves true).ph = .decode ∧ (halves true).raw.entry 6 = some 0x3E#6 ∧
      (getField (halves true).word .present && (halves true).mode6 &&
        getField (halves true).word .mode6) = true ∧
      (halves false).ph = .decode ∧
      (getField (halves false).word .present && (halves false).mode6 &&
        getField (halves false).word .mode6) = false := by decide

/-- The samples of `halves`, by cycle. -/
def halvesSample (c : Cycle) : Sample :=
  match c.val with
  | 1 => 0x33#6
  | 2 => 0x0F#6
  | 3 => 0x06#6
  | 4 => 0x3C#6
  | 5 => 0x30#6
  | 6 => 0x3E#6
  | _ => 0x3F#6

theorem witness_DecodeStepMeetsTheClosedForm :
    ∀ m ∈ [false, true], ∀ c : Cycle, 1 ≤ c.val → c.val < (if (halves m).mode6 then 7 else 5) →
      (halves m).raw.entry c = some (halvesSample c) := by decide

theorem witness_ModeFlagFollowsTheTransitionTable :
    ∀ m ∈ [false, true], ∀ c : Cycle, 1 ≤ c.val → c.val < (if (halves m).mode6 then 7 else 5) →
      (halves m).raw.entry c = some (halvesSample c) := by decide

theorem witness_DecodeStepPublishesTheResult :
    (decodeSamples (halves true).raw (halves true).mode6).toOption.isSome = true ∧
      (halves true).ph = .decode ∧
      ({ halves true with inputs := ports false false 5 0x3F#6 } : State).inputs.rst = false := by decide

theorem witness_DecodedWordsMeetTheProperties :
    (decodeSamples (halves true).raw true).toOption.isSome = true ∧
      (decodeSamples (halves true).raw false).toOption.isSome = true := by decide

/-- Absent, with every other entry unwritten. -/
theorem witness_AbsenceShortCircuitsTheDecode :
    ({ small with raw := RawBuffer.unspecified.write 1 0x3B#6 } : State).raw.entry 1 = some 0x3B#6 ∧
      (lineLow 0x3B#6 2 && lineLow 0x3B#6 3) = false := by decide

theorem witness_EnforcerOrderIsImmaterial :
    (halves true).raw.entry 2 = some 0x0F#6 ∧ (halves true).raw.entry 3 = some 0x06#6 := by decide

/-- Samples that differ in every ignored line. -/
theorem witness_IgnoredLinesHaveNoEffect :
    sameTestedLines (halves true).raw
      { values := #v[0x15#6, 0x00#6, 0x00#6, 0x06#6, 0x00#6, 0x00#6, 0x00#6]
        written := #v[false, true, true, true, true, true, true] } := by
  unfold sameTestedLines
  decide

theorem witness_DecodeStepIsTheSixHalves :
    (halves true).ph = .decode ∧ nextHas (exec .decode (halves true)) (fun _ => true) = true := by decide

theorem witness_DecodeFaultsOnlyOnUnwrittenEntries :
    small.raw.entry 1 = none ∧ exec .decode small = .fault (.rawUnwritten 1) := ⟨by decide, rfl⟩

/-- A state of every phase that meets the invariant, with the coming tick settled. -/
def invAt (ph : Phase) (c : Cycle) : State :=
  { small with
    ph := ph
    cyc := c
    im := match ph with
      | .idle => false
      | .decode => false
      | _ => true
    sc := if ph = .settle then counter 2 else counter 0
    sel := match ph with
      | .idle => true
      | .decode => true
      | .drive => decide (c = 0) || !selLevel c
      | _ => selLevel c
    raw := buffer 0x33#6 0x0F#6 0x06#6 0x3C#6 0x30#6 0x3E#6
    pending := [ports false false 5 0x2A#6] }

theorem invAt_inv (ph : Phase) (c : Cycle) (hc : c.val < 5) (hd : ph = .decode → c = 4) :
    (invAt ph c).Inv := by
  cases ph <;> constructor <;> revert c <;> decide

/-- `DRIVE` of a cycle with the toggle realisation. -/
def invToggle (c : Cycle) : State :=
  { invAt .drive c with params := { paramsOf 2 3 with selImpl := .hardwareToggle } }

theorem witness_EveryStepKeepsTheInvariant :
    ∀ ph ∈ [Phase.idle, .drive, .settle, .sample, .decode], (invAt ph 4).Inv ∧
      nextHas (step (invAt ph 4)) (fun _ => true) = true := by
  intro ph hph
  exact ⟨invAt_inv ph 4 (by decide) (fun _ => rfl), by revert ph; decide⟩

theorem witness_InvariantStatesNeverStop : (invAt .sample 3).Inv :=
  invAt_inv _ _ (by decide) (by decide)

/-- A poll in progress, and one about to be accepted. -/
theorem witness_NoRunStops : (invAt .drive 0).Inv ∧ (invAt .idle 4).Inv :=
  ⟨invAt_inv _ _ (by decide) (by decide), invAt_inv _ _ (by decide) (by decide)⟩

theorem witness_ResultIsWrittenOnlyByDecodeAndReset :
    ∀ ph ∈ [Phase.idle, .drive, .settle, .sample], nextHas (step (invAt ph 4)) (fun _ => true) = true ∧
      ((invAt ph 4).inputAt 0).rst = false ∧ (invAt ph 4).ph ≠ .decode := by decide

/-- A step that toggles `SEL`, one that sets `IM` and one that clears it. -/
theorem witness_SelectAndMaskHaveTheirWriters :
    (nextHas (step (invAt .drive 3)) (fun t => t.sel != (invAt .drive 3).sel) = true ∧
      ((invAt .drive 3).inputAt 0).rst = false) ∧
      (nextHas (step (upcoming (ports false true 3 0x3F#6))) (fun t => t.im) = true ∧
        ((upcoming (ports false true 3 0x3F#6)).inputAt 0).rst = false ∧ small.im = false) ∧
      (nextHas (step (invAt .sample 4)) (fun t => !t.im) = true ∧
        ((invAt .sample 4).inputAt 0).rst = false ∧ (invAt .sample 4).im = true) := by decide

theorem witness_BufferIsWrittenOnlyBySample :
    nextHas (step (invAt .sample 2)) (fun _ => true) = true ∧ ((invAt .sample 2).inputAt 0).rst = false ∧
      nextHas (step (invAt .settle 2)) (fun _ => true) = true := by decide

theorem witness_PhaseAndCycleSuccessors :
    ∀ ph ∈ [Phase.idle, .drive, .settle, .sample, .decode],
      nextHas (step (invAt ph 4)) (fun _ => true) = true ∧ ((invAt ph 4).inputAt 0).rst = false := by decide

theorem witness_ConfigurationIsFixed :
    nextHas (exec .dpad (halves true)) (fun _ => true) = true ∧
      nextHas (exec .sample (invAt .sample 2)) (fun _ => true) = true := by decide

theorem witness_AckAndWordOutFollowTheReturn :
    nextHas (step (invAt .decode 4)) (fun t => t.trace.length == 1) = true ∧
      ((invAt .decode 4).inputAt 0).rst = false ∧
      nextHas (step (upcoming (ports true true 5 0x3F#6))) (fun t => t.trace == []) = true := by decide

theorem witness_EventsOfEveryStep :
    (∀ ph ∈ [Phase.idle, .drive, .settle, .sample, .decode],
      nextHas (step (invAt ph 4)) (fun _ => true) = true ∧ ((invAt ph 4).inputAt 0).rst = false) ∧
      nextHas (step (upcoming (ports false true 2 0x3F#6))) (fun t => t.ph == .idle) = true ∧
      nextHas (step (upcoming (ports false true 3 0x3F#6))) (fun t => t.ph == .drive) = true ∧
      ((upcoming (ports true true 5 0x3F#6)).inputAt 0).rst = true := by decide

theorem witness_PortsAreReadOnlyWhereTheRuleSays :
    (busyAt .drive 1).ph ≠ .sample ∧ (busyAt .drive 1).ph ≠ .decode ∧
      ¬((busyAt .drive 1).ph = .idle ∧ (ports false true 5 0x3F#6).pollReq = true) ∧
      ¬(small.ph = .idle ∧ (ports false false 5 0x3F#6).pollReq = true) ∧ small.ph ≠ .decode := by decide

/-- Both sides of a power of two. -/
theorem witness_SettleCounterHasTheLeastWidth :
    1 ≤ (paramsOf 1 3).nSettle ∧ 1 ≤ (paramsOf 3 3).nSettle ∧ 1 ≤ (paramsOf 4 3).nSettle := by decide

theorem witness_SettleCountsDown : (counter 2).count > 1 ∧ ¬(counter 1).count > 1 := by decide

theorem witness_OpenParametersHaveNoEffect :
    ({ paramsOf 2 3 with fClk := 1, pull := .external, selImpl := .hardwareToggle } : Params).nSettle =
        small.params.nSettle ∧
      ({ paramsOf 2 3 with fClk := 1, pull := .external, selImpl := .hardwareToggle } : Params).tMin =
        small.params.tMin := by decide

/-- Every phase with the explicit realisation; `DRIVE` of cycle 0 and of cycle 3 with the toggle one, under
the invariant. -/
theorem witness_AdapterCallsRealiseTheEvents :
    (∀ ph ∈ [Phase.idle, .drive, .settle, .sample, .decode],
      nextHas (step (invAt ph 4)) (fun _ => true) = true ∧ ((invAt ph 4).inputAt 0).rst = false ∧
        (invAt ph 4).params.selImpl = .explicitLevel) ∧
      ∀ c ∈ [(0 : Cycle), 3],
        (invToggle c).Inv ∧ (invToggle c).ph = .drive ∧ (invToggle c).params.selImpl = .hardwareToggle ∧
          ((invToggle c).inputAt 0).rst = false ∧
          nextHas (step (invToggle c)) (fun t => (stepCalls (invToggle c) t == []) == decide (c = 0)) =
            true := by
  refine ⟨by decide, ?_⟩
  intro c hc
  refine ⟨?_, by revert c; decide, by revert c; decide, by revert c; decide, by revert c; decide⟩
  constructor <;> revert c <;> decide

/-- Cycle 0, where nothing toggles, and the last cycle. -/
theorem witness_DriveTogglesExceptInCycleZero :
    ((invAt .drive 0).Inv ∧ (invAt .drive 4).Inv) ∧
      (∀ c ∈ [(0 : Cycle), 4], (invAt .drive c).ph = .drive ∧ ((invAt .drive c).inputAt 0).rst = false ∧
        nextHas (step (invAt .drive c)) (fun t => (t.sel == (invAt .drive c).sel) == decide (c = 0)) = true) :=
  ⟨⟨invAt_inv _ _ (by decide) (by decide), invAt_inv _ _ (by decide) (by decide)⟩, by decide⟩

/-- A request at the first moment `T_MIN` allows, and the whole poll settled (`N_SETTLE = 2`, 22 ticks). -/
def polling : State :=
  { invAt .idle 4 with
    pending := ports false true 3 0x3F#6 :: List.replicate 21 (ports false false 3 0x33#6) }

theorem witness_AcceptedPollMeetsTheAtomicSummary :
    polling.Inv ∧ polling.ph = .idle ∧ (polling.inputAt 0).pollReq = true ∧
      (∀ j, j < pollTicks polling.params polling.mode6 → (polling.inputAt j).rst = false) ∧
      polling.params.tMin ≤ ((polling.inputAt 0).nowMs - polling.lastT).toNat := by
  refine ⟨?_, by decide, by decide, by decide, by decide⟩
  exact ⟨by decide, by decide, by decide, by decide, by decide, by decide, by decide, by decide⟩

theorem witness_CachedPollsAreIdempotent :
    let s : State := { small with
      pending := [ports false true 2 0x3F#6, ports false false 9 0x3F#6, ports false true 1 0x00#6] }
    s.ph = .idle ∧
      ∀ j, j < 3 → (s.inputAt j).rst = false ∧
        ((s.inputAt j).pollReq = true → ((s.inputAt j).nowMs - s.lastT).toNat < s.params.tMin) := by
  decide

theorem witness_PollLineStandsForItsTicks :
    Line.wf true (.poll 5 6 [0x3F#6, 0x33#6, 0x0F#6, 0x06#6, 0x3C#6, 0x30#6, 0x3E#6]) = true ∧
      ([0x3F#6, 0x33#6, 0x0F#6, 0x06#6, 0x3C#6, 0x30#6, 0x3E#6] : List Sample)[(6 : Cycle).val]? =
        some 0x3E#6 := by decide

end Sys2Proof.Tests
end

section
/-! The reset state (10_state.md R37). -/

namespace Sys2Proof.Proofs

open Sys2Proof Sys2Proof.Machine

/-- Settles O9: each value is the field that `State.reset` gives it, the level of `SEL` through
`Config.selIdle` (00_scope.md R11). The counter's width is open there, and it holds 0 at every width. -/
theorem resetStateHoldsTheSpecValues : Obligations.ResetStateHoldsTheSpecValues :=
  have hsc : State.reset.sc.count = 0 := SettleCounter.count_zero Config.params.scWidth
  ⟨rfl, rfl, rfl, rfl, hsc, rfl, rfl, rfl⟩

end Sys2Proof.Proofs
end

section
/-! The codes of the operation formats (30_encoding.md R70 to R82). -/

namespace Sys2Proof.Proofs

open Sys2Proof

/-- The encoder's code of every operation names that operation (30_encoding.md R71, R72, R74). -/
theorem decode_encode (i : Instr) : decode (encode i) = .ok i := by
  cases i <;> rfl

/-- A reserved code of `PHASE` is refused by its own value (30_encoding.md R72, R82). -/
theorem decode_phase_of_reserved {v : BitVec 8} (h5 : 5 ≤ v.toNat) (h7 : v.toNat ≤ 7) :
    decode ⟨.phase, v⟩ = .error (.reservedPhase v) := by
  have hv : v.toNat = 5 ∨ v.toNat = 6 ∨ v.toNat = 7 := by omega
  obtain hv | hv | hv := hv <;> simp [decode, decodePhase, hv]

/-- Settles O1: the five phase codes are the encoder's, and the last three values are the reserved ones. -/
theorem phaseCodesReadAsSpecified : Obligations.PhaseCodesReadAsSpecified :=
  ⟨decode_encode .idle, decode_encode .drive, decode_encode .settle, decode_encode .sample,
    decode_encode .decode,
    decode_phase_of_reserved (by decide) (by decide),
    decode_phase_of_reserved (by decide) (by decide),
    decode_phase_of_reserved (by decide) (by decide)⟩

end Sys2Proof.Proofs
end

section
/-! The phases `DRIVE` and `SAMPLE` (40_sequencer.md R106, R108, R109). -/

namespace Sys2Proof.Proofs

open Sys2Proof Sys2Proof.Machine

/-- The capture and the end of sampling in one record: the two events stand in the order of R108, R109. -/
theorem finishSampling_capture (c : Cycle) (s : State) :
    (s.capture c).finishSampling =
      { s with
        raw := s.raw.write c s.inputs.lines, im := false, ph := .decode,
        trace := s.trace ++ [.sample c s.inputs.lines, .maskOff] } := by
  simp [State.finishSampling, State.capture, State.emit]

/-- A `SAMPLE` step finishes the sampling in the last cycle (40_sequencer.md R109). -/
theorem sampleCycle_of_last {c : Cycle} {s : State} (hlast : c.val + 1 = ncyc s.mode6) :
    s.sampleCycle c = .next (s.capture c).finishSampling := by
  obtain ⟨-, hnext⟩ | ⟨hne, -⟩ | ⟨hc, hm, -⟩ := State.sampleCycle_cases c s
  · exact hnext
  · exact absurd hlast hne
  · simp [hc, hm, ncyc] at hlast

/-- A `SAMPLE` step advances in any other cycle that has a successor (40_sequencer.md R109). -/
theorem sampleCycle_of_not_last {c : Cycle} {s : State} (hne : c.val + 1 ≠ ncyc s.mode6)
    (h : c.val + 1 < 7) :
    s.sampleCycle c = .next { s.capture c with cyc := ⟨c.val + 1, h⟩, ph := .drive } := by
  obtain ⟨hlast, -⟩ | ⟨-, _, hnext⟩ | ⟨hc, -⟩ := State.sampleCycle_cases c s
  · exact absurd hlast hne
  · exact hnext
  · omega

/-- Settles O20: the two ends of a `SAMPLE` step at the index that `CYC` holds. -/
theorem sampleCapturesThenAdvancesOrFinishes : Obligations.SampleCapturesThenAdvancesOrFinishes := by
  intro s
  constructor
  · intro hlast
    exact (sampleCycle_of_last hlast).trans (congrArg _ (finishSampling_capture s.cyc s))
  · intro hne h
    exact sampleCycle_of_not_last hne h

/-- `DRIVE` for a cycle index, with the level written as the parity of the index (30_encoding.md R75). -/
theorem driveCycle_eq (c : Cycle) (s : State) :
    s.driveCycle c =
      { s with
        sel := decide (c.val % 2 = 0), sc := SettleCounter.load s.params, ph := .settle,
        trace := s.trace ++ [.selWrite (decide (c.val % 2 = 0))] } := by
  rw [← selLevel_eq]
  rfl

/-- Settles O17: `DRIVE` is the drive of the index that `CYC` holds, and the width `W_SC` holds `N_SETTLE`. -/
theorem driveSetsTheSelectLevel : Obligations.DriveSetsTheSelectLevel :=
  fun s => ⟨congrArg _ (driveCycle_eq s.cyc s), SettleCounter.count_load s.params⟩

end Sys2Proof.Proofs
end

section
/-! The constraint enforcer (41_decoder.md R130). -/

namespace Sys2Proof.Proofs

open Sys2Proof Sys2Proof.Machine

/-- The first direction of an axis survives only without the second (41_decoder.md R130). -/
theorem getField_clearAxis_fst (f g : Field) (w : Word) :
    getField (clearAxis f g w) f = (getField w f && !getField w g) := by
  unfold clearAxis
  cases hf : getField w f <;> cases hg : getField w g <;> simp [hf]

/-- The second direction of an axis survives only without the first (41_decoder.md R130). -/
theorem getField_clearAxis_snd (f g : Field) (w : Word) :
    getField (clearAxis f g w) g = (getField w g && !getField w f) := by
  unfold clearAxis
  cases hf : getField w f <;> cases hg : getField w g <;> simp [hg]

/-- The exclusion on one axis leaves every bit off the axis as it was. -/
theorem clearAxis_getLsbD_of_ne {f g : Field} {k : Nat} (hf : k ≠ f.bit) (hg : k ≠ g.bit) (w : Word) :
    (clearAxis f g w).getLsbD k = w.getLsbD k := by
  rw [clearAxis_getLsbD, if_neg hg, if_neg hf, ite_self]

/-- The exclusion on one axis leaves every field off the axis as it was. -/
theorem getField_clearAxis_of_ne {f g h : Field} (hf : h ≠ f) (hg : h ≠ g) (w : Word) :
    getField (clearAxis f g w) h = getField w h :=
  clearAxis_getLsbD_of_ne (mt (Field.bit_injective h f).mp hf) (mt (Field.bit_injective h g).mp hg) w

/-- A field off the horizontal axis is as the exclusion on the vertical axis left it. -/
theorem getField_clearOpposites_of_ne {h : Field} (hl : h ≠ .left) (hr : h ≠ .right) (w : Word) :
    getField (clearOpposites w) h = getField (clearAxis .up .down w) h :=
  getField_clearAxis_of_ne hl hr _

/-- Settles O35: each axis clears its own two bits from their values in the given word, and neither clears
a bit of the other. -/
theorem oppositeDirectionsAreCleared : Obligations.OppositeDirectionsAreCleared := by
  intro w
  have hleft : getField (clearAxis .up .down w) .left = getField w .left :=
    getField_clearAxis_of_ne (by decide) (by decide) w
  have hright : getField (clearAxis .up .down w) .right = getField w .right :=
    getField_clearAxis_of_ne (by decide) (by decide) w
  refine ⟨?up, ?down, ?left, ?right, ?rest⟩
  case up =>
    rw [getField_clearOpposites_of_ne (by decide) (by decide), getField_clearAxis_fst]
  case down =>
    rw [getField_clearOpposites_of_ne (by decide) (by decide), getField_clearAxis_snd]
  case left => rw [clearOpposites, getField_clearAxis_fst, hleft, hright]
  case right => rw [clearOpposites, getField_clearAxis_snd, hleft, hright]
  case rest =>
    intro k hk
    obtain ⟨hup, hdown, hleft, hright⟩ :
        k ≠ Field.up.bit ∧ k ≠ Field.down.bit ∧ k ≠ Field.left.bit ∧ k ≠ Field.right.bit := by
      simp only [Field.bit]; omega
    exact (clearAxis_getLsbD_of_ne hleft hright _).trans (clearAxis_getLsbD_of_ne hup hdown w)

end Sys2Proof.Proofs
end

section
/-! The host operations `POLL` and `NOP` (43_session.md R161 to R166). -/

namespace Sys2Proof.Proofs

open Sys2Proof Sys2Proof.Machine

/-- `POLL` in phase `IDLE` is the rate-limit test (43_session.md R161). -/
theorem exec_poll_of_idle {s : State} (h : s.ph = .idle) : exec .poll s = .next s.pollIdle := by
  simp only [exec, execPoll, h]

/-- `POLL` while busy is the step that the phase alone selects (43_session.md R166). -/
theorem exec_poll_of_ne_idle {s : State} (h : s.ph ≠ .idle) : exec .poll s = s.phaseStep := by
  rw [exec, execPoll]
  split
  · next hidle => exact absurd hidle h
  · rfl

/-- `NOP` is the step that the phase alone selects (43_session.md R165). -/
theorem exec_nop (s : State) : exec .nop s = s.phaseStep := rfl

/-- In `IDLE` the phase alone does nothing (43_session.md R165). -/
theorem phaseStep_of_idle {s : State} (h : s.ph = .idle) : s.phaseStep = .next s := by
  simp only [State.phaseStep, h]

/-- In `DRIVE` the phase selects `DRIVE` (43_session.md R160). -/
theorem phaseStep_of_drive {s : State} (h : s.ph = .drive) : s.phaseStep = exec .drive s := by
  simp only [State.phaseStep, h, exec, execDrive]

/-- In `SETTLE` the phase selects `SETTLE` (43_session.md R160). -/
theorem phaseStep_of_settle {s : State} (h : s.ph = .settle) : s.phaseStep = exec .settle s := by
  simp only [State.phaseStep, h, exec, execSettle]

/-- In `SAMPLE` the phase selects `SAMPLE` (43_session.md R160). -/
theorem phaseStep_of_sample {s : State} (h : s.ph = .sample) : s.phaseStep = exec .sample s := by
  simp only [State.phaseStep, h, exec, execSample]

/-- In `DECODE` the phase selects `DECODE` (43_session.md R160). -/
theorem phaseStep_of_decode {s : State} (h : s.ph = .decode) : s.phaseStep = exec .decode s := by
  simp only [State.phaseStep, h, exec, execDecode]

/-- What a step of phase `IDLE` returns: the cached word, exactly to a rate-limited request
(43_session.md R162). -/
theorem returned_of_idle {s : State} (h : s.ph = .idle) (hrst : s.inputs.rst = false) :
    s.returned = if s.inputs.pollReq && s.rateLimited then some s.word else none := by
  simp only [State.returned, hrst, h, Bool.false_eq_true, if_false]

/-- The cached return as one record (43_session.md R162). -/
theorem cachedReturn_eq (s : State) :
    s.cachedReturn = { s with trace := s.trace ++ [.ret s.word] } := rfl

/-- The accept step as one record (43_session.md R163). -/
theorem accept_eq (s : State) :
    s.accept = { s with im := true, cyc := 0, ph := .drive, trace := s.trace ++ [.maskOn] } := rfl

/-- Settles O12: `POLL` in `IDLE` is the rate-limit test, whose modular subtraction is the integer remainder. -/
theorem pollIsCachedOrAccepted : Obligations.PollIsCachedOrAccepted := by
  intro s hidle
  rw [exec_poll_of_idle hidle, State.pollIdle_eq, elapsed_toNat, cachedReturn_eq, accept_eq]
  exact apply_ite _ _ _ _

/-- Settles O13: below `T_MIN` the rate-limit test takes the cached return, and the ports show its word. -/
theorem cachedReturnAnswersWithTheWord : Obligations.CachedReturnAnswersWithTheWord := by
  intro s hidle hrst hreq hlt
  have hcached : s.pollIdle = s.cachedReturn := s.pollIdle_eq.trans (if_pos hlt)
  have hret : s.returned = some s.word := by
    rw [returned_of_idle hidle hrst, hreq, s.rateLimited_iff.mpr hlt, Bool.and_self, if_pos rfl]
  refine ⟨?next, ?ack, ?word⟩
  case next => rw [exec_poll_of_idle hidle, hcached, cachedReturn_eq]
  case ack => rw [State.ack, hret, Option.isSome_some]
  case word => rw [State.wordOut, hret, Option.getD_some]

/-- While busy, `NOP` and `POLL` do the step that the phase alone selects (43_session.md R165, R166). -/
theorem exec_nop_and_poll_of_busy {s : State} {p : Phase} {r : Result} (hph : s.ph = p)
    (hbusy : p ≠ .idle) (hr : s.phaseStep = r) : exec .nop s = r ∧ exec .poll s = r :=
  ⟨(exec_nop s).trans hr, (exec_poll_of_ne_idle (hph.trans_ne hbusy)).trans hr⟩

/-- In phase `IDLE` nothing is returned without a request (43_session.md R165). -/
theorem returned_of_idle_of_no_request {s : State} (h : s.ph = .idle) (hrst : s.inputs.rst = false)
    (hreq : s.inputs.pollReq = false) : s.returned = none := by
  rw [returned_of_idle h hrst, hreq, Bool.false_and, if_neg Bool.false_ne_true]

/-- Settles O15: `NOP` is the step that the phase alone selects, and `POLL` is that step in every phase but
`IDLE`. -/
theorem nopIsThePhasesOwnStep : Obligations.NopIsThePhasesOwnStep := by
  intro s
  refine ⟨fun hph => ⟨?nop, fun hrst hreq => ?ports⟩, fun hph => ?drive, fun hph => ?settle,
    fun hph => ?sample, fun hph => ?decode⟩
  case nop => exact (exec_nop s).trans (phaseStep_of_idle hph)
  case ports =>
    have hret : s.returned = none := returned_of_idle_of_no_request hph hrst hreq
    rw [State.ack, State.wordOut, hret]
    exact ⟨Option.isSome_none, Option.getD_none⟩
  case drive => exact exec_nop_and_poll_of_busy hph (by decide) (phaseStep_of_drive hph)
  case settle => exact exec_nop_and_poll_of_busy hph (by decide) (phaseStep_of_settle hph)
  case sample => exact exec_nop_and_poll_of_busy hph (by decide) (phaseStep_of_sample hph)
  case decode => exact exec_nop_and_poll_of_busy hph (by decide) (phaseStep_of_decode hph)

end Sys2Proof.Proofs
end

section
/-! `RESET` in any phase (70_reset_and_hazards.md R200, R201). -/

namespace Sys2Proof.Proofs

open Sys2Proof Sys2Proof.Machine

/-- A tick with `rst = 1` is `RESET`, whatever the phase and the other ports (43_session.md R160). -/
theorem step_of_rst {s : State} (hrst : (s.inputAt 0).rst = true) :
    step s = .next s.sampleInputs.resetEngine :=
  (step_eq s).trans (if_pos hrst)

/-- A tick with `rst = 1` returns no word (10_state.md R32, 70_reset_and_hazards.md R201). -/
theorem returned_of_rst {s : State} (hrst : s.inputs.rst = true) : s.returned = none :=
  if_pos hrst

/-- A tick with `rst = 1` raises no `ack` (10_state.md R32, 70_reset_and_hazards.md R201). -/
theorem ack_of_rst {s : State} (hrst : s.inputs.rst = true) : s.ack = false := by
  rw [State.ack, returned_of_rst hrst, Option.isSome_none]

/-- Settles O11: the tick is `RESET` on the sampled ports, which keeps the trace and the parameters. -/
theorem resetDiscardsAPollInProgress : Obligations.ResetDiscardsAPollInProgress := by
  intro s hrst
  have hport : s.sampleInputs.inputs.rst = true := by
    rwa [State.sampleInputs_inputs, State.nextInputs_eq]
  refine ⟨ack_of_rst hport, s.sampleInputs.resetEngine, step_of_rst hrst, ?fields⟩
  case fields => simp

end Sys2Proof.Proofs
end

section
/-! The codes and the operations they name (30_encoding.md R70 to R74, R81, R82). -/

namespace Sys2Proof.Proofs

open Sys2Proof Sys2Proof.Machine

/-- Every code of an operation is read as that operation. -/
theorem decode_of_mem_codesOf (i : Instr) : ∀ c ∈ codesOf i, decode c = .ok i := by
  cases i <;> decide

/-- A byte of value `n` is a code of an operation where the byte `n` is. -/
theorem mem_codesOf_of_toNat {f : Format} {v : BitVec 8} {n : Nat} {i : Instr} (hv : v.toNat = n)
    (hn : (⟨f, BitVec.ofNat 8 n⟩ : Code) ∈ codesOf i) : (⟨f, v⟩ : Code) ∈ codesOf i := by
  rwa [← hv, BitVec.ofNat_toNat, BitVec.setWidth_eq] at hn

/-- A code that is read as an operation is one of that operation's codes: each row of the three formats
answers on one value. -/
theorem mem_codesOf_of_decode {c : Code} {i : Instr} (h : decode c = .ok i) : c ∈ codesOf i := by
  obtain ⟨f, v⟩ := c
  cases f <;> simp only [decode, decodeHost, decodePhase, decodeCyc] at h <;> split at h <;> cases h
  all_goals exact mem_codesOf_of_toNat ‹_› (by decide)

/-- Settles O3: the decoder of each format answers an operation on that operation's bytes only, and every
byte listed in `codesOf` is read back. -/
theorem decodeAcceptsExactlyTheCodesOf : Obligations.DecodeAcceptsExactlyTheCodesOf :=
  fun c i => ⟨mem_codesOf_of_decode, decode_of_mem_codesOf i c⟩

/-- The codes of every operation are well formed. -/
theorem wf_of_mem_codesOf (i : Instr) : ∀ c ∈ codesOf i, c.wf = true := by
  cases i <;> decide

/-- The number of well-formed codes of a format: the first value that is reserved or too wide. -/
def wfBound : Format → Nat
  | .host => 4
  | .phase => 5
  | .cyc => 7

/-- The well-formed codes of a format are the values below its bound (30_encoding.md R70, R81, R82). -/
theorem wf_iff_lt_wfBound (f : Format) (v : BitVec 8) :
    (⟨f, v⟩ : Code).wf = true ↔ v.toNat < wfBound f := by
  rw [Code.wf, Bool.and_eq_true, decide_eq_true_eq]
  cases f <;> simp [Code.reserved, Format.width, wfBound] <;> omega

/-- A well-formed code is the code of some operation. -/
theorem exists_decode_of_wf {c : Code} (h : c.wf = true) : ∃ i, decode c = .ok i := by
  obtain ⟨f, v⟩ := c
  rw [wf_iff_lt_wfBound] at h
  cases f <;> simp only [wfBound] at h <;> generalize hn : v.toNat = n at h <;> interval_cases n <;>
    simp [decode, decodeHost, decodePhase, decodeCyc, hn]

/-- Settles O4: every code in `codesOf` is well formed, and below the bound of its format every value is
read as an operation. -/
theorem illFormedCodesAreRefused : Obligations.IllFormedCodesAreRefused :=
  fun c => ⟨fun ⟨i, h⟩ => wf_of_mem_codesOf i c (mem_codesOf_of_decode h), exists_decode_of_wf⟩

/-- Settles O2: each operation's codes are read as that operation, and value 7 of `CYC` is the reserved one. -/
theorem hostAndCycleCodesReadAsSpecified : Obligations.HostAndCycleCodesReadAsSpecified :=
  ⟨decode_encode .reset, decode_of_mem_codesOf .reset _ (by decide), decode_encode .poll,
    decode_encode .nop, decode_encode .lead, decode_encode .pres, decode_encode .ast,
    decode_encode .dpad, decode_encode .modep, decode_encode .xyzm, decode_encode .home, rfl⟩

end Sys2Proof.Proofs
end

section
/-! The operation a step runs (43_session.md R160, 30_encoding.md R70). -/

namespace Sys2Proof.Proofs

open Sys2Proof Sys2Proof.Machine

/-- A step runs the operation that the sampled ports and the state select (43_session.md R160). -/
theorem step_of_selectInstr {s : State} {i : Instr} (h : s.sampleInputs.selectInstr = .ok i) :
    step s = exec i s.sampleInputs := by
  rw [step, h]

/-- Settles O5: the ports of the coming tick are sampled, and the selected operation runs. -/
theorem stepRunsTheSelectedInstruction : Obligations.StepRunsTheSelectedInstruction := by
  intro s i
  refine ⟨?_, step_of_selectInstr⟩
  rw [← State.nextInputs_eq]
  rfl

/-- What the sampled state selects, in terms of the port values of the coming tick. -/
theorem selectInstr_sampleInputs (s : State) :
    s.sampleInputs.selectInstr =
      .ok (if (s.inputAt 0).rst then .reset
        else match s.ph with
          | .idle => if (s.inputAt 0).pollReq then .poll else .nop
          | .drive => .drive
          | .settle => .settle
          | .sample => .sample
          | .decode => .decode) := by
  rw [State.selectInstr_eq, State.sampleInputs_inputs, State.nextInputs_eq]
  rfl

/-- With `rst = 1` the step is `RESET`. -/
theorem step_eq_exec_reset {s : State} (hrst : (s.inputAt 0).rst = true) :
    step s = exec .reset s.sampleInputs :=
  step_of_selectInstr (by simp [selectInstr_sampleInputs, hrst])

/-- In `IDLE` a request selects `POLL`, and its absence `NOP`. -/
theorem step_eq_exec_of_idle {s : State} (hrst : (s.inputAt 0).rst = false) (hph : s.ph = .idle) :
    step s = exec (if (s.inputAt 0).pollReq then .poll else .nop) s.sampleInputs :=
  step_of_selectInstr (by simp [selectInstr_sampleInputs, hrst, hph])

/-- In `IDLE` the operation `IDLE` is `POLL` on a request and `NOP` without one (43_session.md R160). -/
theorem exec_idle_of_idle {s : State} (hph : s.ph = .idle) :
    exec .idle s = exec (if s.inputs.pollReq then .poll else .nop) s := by
  cases hreq : s.inputs.pollReq with
  | true =>
    exact (show exec .idle s = .next s.pollIdle by
      simp [exec, execIdle, State.idleStep, hreq]).trans (exec_poll_of_idle hph).symm
  | false =>
    exact (show exec .idle s = .next s by
      simp [exec, execIdle, State.idleStep, hreq]).trans (phaseStep_of_idle hph).symm

/-- While the engine is busy the `PHASE` code selects the step, whatever `poll_req` is. -/
theorem step_eq_phaseStep {s : State} (hrst : (s.inputAt 0).rst = false) (hph : s.ph ≠ .idle) :
    step s = s.sampleInputs.phaseStep := by
  rw [step_eq, if_neg (by simp [hrst])]
  cases h : s.ph with
  | idle => exact absurd h hph
  | drive | settle | sample | decode => simp [State.phaseStep, h]

/-- Settles O6: `rst` first, then the phase, then `poll_req` in `IDLE` alone. -/
theorem stepIsSelectedByPriority : Obligations.StepIsSelectedByPriority := by
  intro s
  refine ⟨step_eq_exec_reset, fun hrst => ⟨?poll, ?nop, ?idle, ?drive, ?settle, ?sample, ?decode⟩⟩
  case poll =>
    intro hph hreq
    rw [step_eq_exec_of_idle hrst hph, hreq, if_pos rfl]
  case nop =>
    intro hph hreq
    rw [step_eq_exec_of_idle hrst hph, hreq, if_neg Bool.false_ne_true]
  case idle =>
    intro hph
    rw [step_eq_exec_of_idle hrst hph, exec_idle_of_idle (s := s.sampleInputs) hph,
      State.sampleInputs_inputs, State.nextInputs_eq]
  case drive =>
    exact fun hph => (step_eq_phaseStep hrst (by simp [hph])).trans (phaseStep_of_drive hph)
  case settle =>
    exact fun hph => (step_eq_phaseStep hrst (by simp [hph])).trans (phaseStep_of_settle hph)
  case sample =>
    exact fun hph => (step_eq_phaseStep hrst (by simp [hph])).trans (phaseStep_of_sample hph)
  case decode =>
    exact fun hph => (step_eq_phaseStep hrst (by simp [hph])).trans (phaseStep_of_decode hph)

end Sys2Proof.Proofs
end

section
/-! The cycle operations in the phases of the sequencer (40_sequencer.md R106 to R111). -/

namespace Sys2Proof.Proofs

open Sys2Proof Sys2Proof.Machine

/-- The decoder half of a cycle operation, the only part in which the seven differ beside their index
(30_encoding.md R74). -/
def decoderHalf (i : Instr) (s : State) : Result :=
  match i with
  | .pres => s.decodeHalf (muxPres s.raw)
  | .ast => s.decodeHalf (muxAst s.raw s.underConstruction)
  | .dpad => s.decodeHalf (muxDpad s.raw s.underConstruction)
  | .modep => s.decodeHalf (muxModep s.raw s.underConstruction)
  | .xyzm => s.decodeHalf (muxXyzm s.raw s.mode6 s.underConstruction)
  | .home => s.decodeHalf (muxHome s.raw s.mode6 s.underConstruction)
  | _ => .next s

/-- Every cycle operation is the cycle step of its own index with its own decoder half. -/
theorem exec_cycleOperation {p : Instr × Cycle} (hp : p ∈ cycleOperations) (s : State) :
    exec p.1 s = s.cycleStep p.2 (decoderHalf p.1 s) := by
  simp only [cycleOperations, List.mem_cons, List.not_mem_nil, or_false] at hp
  obtain rfl | rfl | rfl | rfl | rfl | rfl | rfl := hp <;> rfl

/-- In `IDLE` a cycle operation is the phase's own step (log 9). -/
theorem exec_cycle_of_idle {p : Instr × Cycle} (hp : p ∈ cycleOperations) {s : State}
    (hph : s.ph = .idle) : exec p.1 s = .next s.idleStep := by
  rw [exec_cycleOperation hp, State.cycleStep, hph]

/-- In `DRIVE` it is the drive of its own index (40_sequencer.md R106). -/
theorem exec_cycle_of_drive {p : Instr × Cycle} (hp : p ∈ cycleOperations) {s : State}
    (hph : s.ph = .drive) : exec p.1 s = .next (s.driveCycle p.2) := by
  rw [exec_cycleOperation hp, State.cycleStep, hph]

/-- In `SETTLE` it is one tick of the wait (40_sequencer.md R107). -/
theorem exec_cycle_of_settle {p : Instr × Cycle} (hp : p ∈ cycleOperations) {s : State}
    (hph : s.ph = .settle) : exec p.1 s = .next s.settleTick := by
  rw [exec_cycleOperation hp, State.cycleStep, hph]

/-- In `SAMPLE` it is the sample of its own index (40_sequencer.md R108, R109). -/
theorem exec_cycle_of_sample {p : Instr × Cycle} (hp : p ∈ cycleOperations) {s : State}
    (hph : s.ph = .sample) : exec p.1 s = s.sampleCycle p.2 := by
  rw [exec_cycleOperation hp, State.cycleStep, hph]

/-- In `DECODE` it is its decoder half (log 9). -/
theorem exec_cycle_of_decode {p : Instr × Cycle} (hp : p ∈ cycleOperations) {s : State}
    (hph : s.ph = .decode) : exec p.1 s = decoderHalf p.1 s := by
  rw [exec_cycleOperation hp, State.cycleStep, hph]

/-- The operation that the `CYC` code of an index names has that index (30_encoding.md R73, R74). -/
theorem mem_cycleOperations_of_decode {c : Cycle} {i : Instr} (h : decode (cycleCode c) = .ok i) :
    (i, c) ∈ cycleOperations := by
  match c with
  | 0 | 1 | 2 | 3 | 4 | 5 | 6 => cases h; decide

/-- While the sequencer is active, a step is that of the cycle operation whose index is `CYC`. -/
theorem step_eq_exec_cycle {s : State} {i : Instr} (hrst : (s.inputAt 0).rst = false)
    (hph : s.ph = .drive ∨ s.ph = .settle ∨ s.ph = .sample) (hi : (i, s.cyc) ∈ cycleOperations) :
    step s = exec i s.sampleInputs := by
  rw [step_eq_phaseStep hrst (by obtain h | h | h := hph <;> simp [h])]
  obtain h | h | h := hph
  · rw [phaseStep_of_drive (s := s.sampleInputs) h]
    exact (exec_cycle_of_drive (s := s.sampleInputs) hi h).symm
  · rw [phaseStep_of_settle (s := s.sampleInputs) h]
    exact (exec_cycle_of_settle (s := s.sampleInputs) hi h).symm
  · rw [phaseStep_of_sample (s := s.sampleInputs) h]
    exact (exec_cycle_of_sample (s := s.sampleInputs) hi h).symm

/-- Settles O7: the `CYC` code decodes to the operation of that index, which does the phase's own step. -/
theorem sequencerStepIsTheCycleOperation : Obligations.SequencerStepIsTheCycleOperation :=
  fun _ _ hrst hph hdec => step_eq_exec_cycle hrst hph (mem_cycleOperations_of_decode hdec)

/-- A placed cycle operation runs next: `place` sets `CYC` to its index and the phase to `DRIVE`. -/
theorem step_place_cycle {p : Instr × Cycle} (hp : p ∈ cycleOperations) (s : State)
    (hplace : s.place p.1 = s.atCycle p.2) :
    step (s.place p.1) = exec p.1 (s.place p.1).sampleInputs := by
  rw [hplace]
  exact step_eq_exec_cycle rfl (.inl rfl) hp

/-- The next step runs the operation that has been placed (log 12). -/
theorem step_place (s : State) (i : Instr) :
    step (s.place i) = exec i (s.place i).sampleInputs := by
  cases i with
  | reset => exact step_eq_exec_reset rfl
  | poll => exact step_eq_exec_of_idle rfl rfl
  | nop => exact step_eq_exec_of_idle rfl rfl
  | idle =>
    have hnop := exec_idle_of_idle (s := (s.place .idle).sampleInputs) rfl
    exact (step_eq_exec_of_idle rfl rfl).trans hnop.symm
  | drive | settle | sample | decode => exact step_eq_phaseStep rfl (by simp [State.place])
  | lead => exact step_place_cycle (p := (.lead, 0)) (by decide) s rfl
  | pres => exact step_place_cycle (p := (.pres, 1)) (by decide) s rfl
  | ast => exact step_place_cycle (p := (.ast, 2)) (by decide) s rfl
  | dpad => exact step_place_cycle (p := (.dpad, 3)) (by decide) s rfl
  | modep => exact step_place_cycle (p := (.modep, 4)) (by decide) s rfl
  | xyzm => exact step_place_cycle (p := (.xyzm, 5)) (by decide) s rfl
  | home => exact step_place_cycle (p := (.home, 6)) (by decide) s rfl

/-- Settles O8: the word is placed as the operation it decodes to. -/
theorem placedWordRunsNext : Obligations.PlacedWordRunsNext := by
  intro s nbits w i hw
  have hplaced : s.withFetchWord nbits w = s.place i := by
    rw [State.withFetchWord, State.placeWord, hw]
  rw [hplaced]
  exact step_place s i

/-- The settle tick, with its comparison written as in 40_sequencer.md R107. -/
theorem settleTick_eq (s : State) :
    s.settleTick =
      if s.sc.count > 1 then { s with sc := s.sc.dec }
      else { s with sc := SettleCounter.zero s.sc.width, ph := .sample } := rfl

/-- Settles O22: in `DRIVE` each operation drives its own level, in `SETTLE` it is the settle tick. -/
theorem cycleOperationsDriveAndSettle : Obligations.CycleOperationsDriveAndSettle := by
  intro p hp s
  constructor
  · intro hph
    rw [exec_cycle_of_drive hp hph, driveCycle_eq]
  · intro hph
    rw [exec_cycle_of_settle hp hph, settleTick_eq]

/-- Settles O23: in `SAMPLE` each operation captures its own entry and ends as its own index demands. -/
theorem cycleOperationsCaptureTheirEntry : Obligations.CycleOperationsCaptureTheirEntry := by
  intro p hp s hph
  constructor
  · intro hlast
    rw [exec_cycle_of_sample hp hph, sampleCycle_of_last hlast, finishSampling_capture]
    rfl
  · intro hne h
    rw [exec_cycle_of_sample hp hph, sampleCycle_of_not_last hne h]
    rfl

/-- Settles O24: in `IDLE` each operation is the phase's own step, and `LEAD` has no decoder half. -/
theorem cycleOperationsOutsideACycle : Obligations.CycleOperationsOutsideACycle :=
  ⟨fun _ hp _ hph => exec_cycle_of_idle hp hph,
    fun _ hph => exec_cycle_of_decode (p := (.lead, 0)) (by decide) hph⟩

/-- The increment at index 6 with `MODE6 = 0` is refused (20_memory.md R53). -/
theorem sampleCycle_six {s : State} {c : Cycle} (hc : c.val = 6) (hm : s.mode6 = false) :
    s.sampleCycle c = .refused .cycleSeven := by
  obtain ⟨hlast, -⟩ | ⟨-, hlt, -⟩ | ⟨-, -, hrefused⟩ := State.sampleCycle_cases c s
  · simp [hc, hm, ncyc] at hlast
  · omega
  · exact hrefused

/-- Settles O21: the refusal at index 6, which the cycle bound of the invariant excludes. -/
theorem indexSevenIsRefused : Obligations.IndexSevenIsRefused := by
  intro s
  refine ⟨fun hc hm => sampleCycle_six hc hm, fun hph hm => ?home, fun hinv hph hc => ?inv⟩
  case home =>
    rw [exec_cycle_of_sample (p := (.home, 6)) (by decide) hph]
    exact sampleCycle_six rfl hm
  case inv =>
    have hlt : s.cyc.val < ncyc s.mode6 := hinv.cycle.1 (by simp [hph])
    cases hm : s.mode6 with
    | true => rfl
    | false =>
      rw [hm, hc] at hlt
      exact absurd hlt (by decide)

end Sys2Proof.Proofs
end

section
/-! `IDLE`, `SETTLE` and `RESET` as operations (43_session.md R160, 40_sequencer.md R107,
70_reset_and_hazards.md R200). -/

namespace Sys2Proof.Proofs

open Sys2Proof Sys2Proof.Machine

/-- Settles O16: without a request nothing, with one the rate-limit test of `POLL`. -/
theorem idleAnswersOrWaits : Obligations.IdleAnswersOrWaits := by
  intro s
  show Host.Outcome.next s.idleStep = _
  rw [State.idleStep, State.pollIdle_eq, elapsed_toNat, cachedReturn_eq, accept_eq]
  cases hreq : s.inputs.pollReq with
  | false => rw [if_neg Bool.false_ne_true, if_pos rfl]
  | true => rw [if_pos rfl, if_neg Bool.true_eq_false_eq_False]

/-- Settles O18: the settle tick, and the decrement that does not wrap. -/
theorem settleCountsDown : Obligations.SettleCountsDown :=
  fun s => ⟨congrArg Host.Outcome.next (settleTick_eq s),
    fun h => ⟨SettleCounter.count_dec (Nat.le_of_lt h), SettleCounter.width_dec s.sc⟩,
    SettleCounter.count_zero s.sc.width⟩

/-- Settles O10: every field is the one `RESET` writes, and no entry of the buffer can be read. -/
theorem resetWritesEveryElement : Obligations.ResetWritesEveryElement :=
  ⟨fun c => ⟨RawBuffer.values_unspecified c, RawBuffer.entry_unspecified c⟩, fun _ => rfl⟩

end Sys2Proof.Proofs
end

section
/-! The constraint enforcer and the decoded word (41_decoder.md R130 to R136). -/

namespace Sys2Proof.Proofs

open Sys2Proof Sys2Proof.Machine

/-- The bits that only a six-button word has set (41_decoder.md R131). -/
def Field.exclusive (f : Field) : Bool :=
  f = .x || f = .y || f = .z || f = .mode || f = .home

/-- The direction that excludes a field (41_decoder.md R130). -/
def Field.opposite : Field → Option Field
  | .up => some .down
  | .down => some .up
  | .left => some .right
  | .right => some .left
  | _ => none

/-- Whether the direction that excludes a field is set. -/
def opposed (w : Word) (f : Field) : Bool := (Field.opposite f).any (getField w)

/-- Opposite-direction exclusion, field by field (41_decoder.md R130). -/
theorem getField_clearOpposites (w : Word) (f : Field) :
    getField (clearOpposites w) f = (getField w f && !opposed w f) := by
  obtain ⟨hup, hdown, hleft, hright, hrest⟩ := oppositeDirectionsAreCleared w
  cases f with
  | up => simpa [opposed, Field.opposite] using hup
  | down => simpa [opposed, Field.opposite] using hdown
  | left => simpa [opposed, Field.opposite] using hleft
  | right => simpa [opposed, Field.opposite] using hright
  | _ => exact (hrest _ (by decide)).trans (Bool.and_true _).symm

/-- Opposite-direction exclusion leaves the reserved bit. -/
theorem clearOpposites_reserved (w : Word) : (clearOpposites w).getLsbD 15 = w.getLsbD 15 :=
  (oppositeDirectionsAreCleared w).2.2.2.2 15 (by decide)

/-- The mode-exclusive clear leaves the reserved bit. -/
theorem clearExclusive_reserved (w : Word) : (clearExclusive w).getLsbD 15 = w.getLsbD 15 := by
  unfold clearExclusive
  split <;> simp

/-- The presence clear clears the reserved bit too. -/
theorem clearAbsent_reserved (w : Word) :
    (clearAbsent w).getLsbD 15 = (w.getLsbD 15 && getField w .present) := by
  unfold clearAbsent
  split <;> simp_all

/-- The enforcer, field by field: a field survives only with presence, without its opposite, and, if it is
mode-exclusive, with the six-button bit (41_decoder.md R133). -/
theorem getField_enforce (w : Word) (f : Field) :
    getField (enforce w) f =
      (getField w f && !opposed w f && (getField w .mode6 || !Field.exclusive f) && getField w .present) := by
  rw [enforce, getField_clearAbsent, getField_clearExclusive, getField_clearExclusive,
    getField_clearOpposites, getField_clearOpposites, getField_clearOpposites]
  simp [opposed, Field.opposite, Field.exclusive]

/-- The enforcer sets no reserved bit. -/
theorem enforce_reserved (w : Word) :
    (enforce w).getLsbD 15 = (w.getLsbD 15 && getField w .present) := by
  rw [enforce, clearAbsent_reserved, clearExclusive_reserved, clearOpposites_reserved,
    getField_clearExclusive, getField_clearOpposites]
  simp [opposed, Field.opposite]

/-- Exclusion and mode-exclusive clear commute: they look at, and write, different fields. -/
theorem clearExclusive_clearOpposites (w : Word) :
    clearExclusive (clearOpposites w) = clearOpposites (clearExclusive w) := by
  refine word_ext_fields _ _ (fun f => ?_) ?_
  · rw [getField_clearExclusive, getField_clearOpposites, getField_clearOpposites,
      getField_clearOpposites, getField_clearExclusive]
    cases f <;> simp [opposed, Field.opposite, getField_clearExclusive]
  · rw [clearExclusive_reserved, clearOpposites_reserved, clearOpposites_reserved,
      clearExclusive_reserved]

/-- Exclusion and presence clear commute. -/
theorem clearAbsent_clearOpposites (w : Word) :
    clearAbsent (clearOpposites w) = clearOpposites (clearAbsent w) := by
  have hp : getField (clearOpposites w) .present = getField w .present := by
    simp [getField_clearOpposites, opposed, Field.opposite]
  cases h : getField w .present <;> rw [h] at hp
  · rw [clearAbsent, clearAbsent, hp, h, if_neg Bool.false_ne_true, if_neg Bool.false_ne_true]
    decide
  · rw [clearAbsent, clearAbsent, hp, h, if_pos rfl, if_pos rfl]

/-- Mode-exclusive clear and presence clear commute. -/
theorem clearAbsent_clearExclusive (w : Word) :
    clearAbsent (clearExclusive w) = clearExclusive (clearAbsent w) := by
  have hp : getField (clearExclusive w) .present = getField w .present := by
    simp [getField_clearExclusive]
  cases h : getField w .present <;> rw [h] at hp
  · rw [clearAbsent, clearAbsent, hp, h, if_neg Bool.false_ne_true, if_neg Bool.false_ne_true]
    decide
  · rw [clearAbsent, clearAbsent, hp, h, if_pos rfl, if_pos rfl]

/-- Writes to different fields commute (30_encoding.md R78). -/
theorem setField_comm {f g : Field} (h : f ≠ g) (w : Word) (u v : Bool) :
    setField (setField w f u) g v = setField (setField w g v) f u := by
  refine word_ext_fields _ _ (fun k => ?_) (by simp)
  simp only [getField_setField]
  by_cases hf : k = f
  · simp [hf, h]
  · simp [hf]

/-- A field that a row does not copy can be written before or after the row. -/
theorem copyLines_setField {f : Field} (act : Sample) (v : Bool) :
    ∀ (l : List (Nat × Field)) (w : Word), (∀ p ∈ l, p.2 ≠ f) →
      copyLines act l (setField w f v) = setField (copyLines act l w) f v
  | [], _, _ => rfl
  | (line, g) :: rest, w, h => by
    rw [copyLines, copyLines, setField_comm (h (line, g) List.mem_cons_self).symm]
    exact copyLines_setField act v rest _ fun p hp => h p (List.mem_cons_of_mem _ hp)

/-- Two rows that copy to different fields can be processed in either order (41_decoder.md R133). -/
theorem copyLines_comm (act act' : Sample) :
    ∀ (l l' : List (Nat × Field)) (w : Word), (∀ p ∈ l, ∀ q ∈ l', q.2 ≠ p.2) →
      copyLines act' l' (copyLines act l w) = copyLines act l (copyLines act' l' w)
  | [], _, _, _ => rfl
  | (line, g) :: rest, l', w, h => by
    rw [copyLines, copyLines, copyLines_comm act act' rest l' _
      fun p hp => h p (List.mem_cons_of_mem _ hp),
      copyLines_setField act' _ l' w (h (line, g) List.mem_cons_self)]

/-- A row that does not copy to a field leaves it. -/
theorem getField_copyLines_of_ne {f : Field} (act : Sample) :
    ∀ (l : List (Nat × Field)) (w : Word), (∀ p ∈ l, p.2 ≠ f) →
      getField (copyLines act l w) f = getField w f
  | [], _, _ => rfl
  | (line, g) :: rest, w, h => by
    rw [copyLines, getField_copyLines_of_ne act rest _ fun p hp => h p (List.mem_cons_of_mem _ hp),
      getField_setField, if_neg (h (line, g) List.mem_cons_self).symm]

/-- A bit that a row does not copy to stays. -/
theorem copyLines_getLsbD_of_ne {k : Nat} (act : Sample) :
    ∀ (l : List (Nat × Field)) (w : Word), (∀ p ∈ l, k ≠ p.2.bit) →
      (copyLines act l w).getLsbD k = w.getLsbD k
  | [], _, _ => rfl
  | (line, g) :: rest, w, h => by
    rw [copyLines, copyLines_getLsbD_of_ne act rest _ fun p hp => h p (List.mem_cons_of_mem _ hp),
      setField_getLsbD, if_neg (h (line, g) List.mem_cons_self)]

/-- `AST` and `DPAD` in either order: they copy to different fields, and neither touches presence. -/
theorem ast_dpad_comm {raw : RawBuffer} {v2 v3 : Sample} (h2 : raw.entry 2 = some v2)
    (h3 : raw.entry 3 = some v3) (d : Decoded) :
    ∃ d', (muxAst raw d >>= muxDpad raw) = .ok d' ∧ (muxDpad raw d >>= muxAst raw) = .ok d' := by
  cases hp : getField d.w .present with
  | false =>
    obtain ⟨hast, hdpad, -⟩ := mux_of_absent raw false hp
    exact ⟨d, by rw [hast]; exact hdpad, by rw [hdpad]; exact hast⟩
  | true =>
    have hkeep (act : Sample) (c : Cycle) (hc : ∀ p ∈ cycleCopies c, p.2 ≠ .present) :
        getField (copyLines act (cycleCopies c) d.w) .present = true :=
      (getField_copyLines_of_ne act _ _ hc).trans hp
    have hast := muxCopies_of_some (c := 2) d h2
    have hdpad := muxCopies_of_some (c := 3) d h3
    refine ⟨⟨copyLines (activate v3) (cycleCopies 3)
      (copyLines (activate v2) (cycleCopies 2) d.w), d.mNew⟩, ?_, ?_⟩
    · rw [muxAst_of_present hp, hast]
      exact (muxDpad_of_present (hkeep _ 2 (by decide))).trans (muxCopies_of_some _ h3)
    · rw [muxDpad_of_present hp, hdpad,
        copyLines_comm _ _ (cycleCopies 2) (cycleCopies 3) d.w (by decide)]
      exact (muxAst_of_present (hkeep _ 3 (by decide))).trans (muxCopies_of_some _ h2)

/-- Settles O36: the three clears commute pairwise, and so do cycles 2 and 3. -/
theorem enforcerOrderIsImmaterial : Obligations.EnforcerOrderIsImmaterial := by
  refine ⟨fun w => ⟨rfl, ?_, ?_, ?_, ?_, ?_⟩, fun raw d v2 v3 h2 h3 => ast_dpad_comm h2 h3 d⟩
  · rw [enforce, clearAbsent_clearExclusive]
  · rw [enforce, clearExclusive_clearOpposites]
  · rw [enforce, clearExclusive_clearOpposites, clearAbsent_clearOpposites]
  · rw [enforce, clearAbsent_clearExclusive, clearAbsent_clearOpposites]
  · rw [enforce, clearExclusive_clearOpposites, clearAbsent_clearOpposites,
      clearAbsent_clearExclusive]

/-- What the enforcer answers is a decoded state word (41_decoder.md R136), if the reserved bit is clear. -/
theorem wordOk_enforce {w : Word} (h15 : w.getLsbD 15 = false) : WordOk (enforce w) := by
  refine ⟨?absent, ?vertical, ?horizontal, ?exclusive, ?reserved⟩
  case absent =>
    intro habsent
    have hp : getField w .present = false := by
      simpa [getField_enforce, opposed, Field.opposite, Field.exclusive] using habsent
    have hclear : getField (clearExclusive (clearOpposites w)) .present = false := by
      simp [getField_clearExclusive, getField_clearOpposites, hp]
    exact if_neg (by simp [hclear])
  case vertical =>
    rintro ⟨hup, hdown⟩
    simp [getField_enforce, opposed, Field.opposite] at hup hdown
    simp [hup] at hdown
  case horizontal =>
    rintro ⟨hleft, hright⟩
    simp [getField_enforce, opposed, Field.opposite] at hleft hright
    simp [hleft] at hright
  case exclusive =>
    simp only [getField_enforce]
    simp [opposed, Field.opposite, Field.exclusive]
    grind
  case reserved => rw [enforce_reserved, h15, Bool.false_and]

end Sys2Proof.Proofs
end

section
/-! The result of the decoder (41_decoder.md R134 to R136, 42_mode_detector.md R151). -/

namespace Sys2Proof.Proofs

open Sys2Proof Sys2Proof.Machine

/-- No row sets the reserved bit. -/
theorem copyLines_reserved (act : Sample) (l : List (Nat × Field)) (w : Word) :
    (copyLines act l w).getLsbD 15 = w.getLsbD 15 :=
  copyLines_getLsbD_of_ne act l w fun p _ => by cases p.2 <;> decide

/-- The word after `DPAD` has the reserved bit clear. -/
theorem presentWord_reserved (v2 v3 : Sample) : (presentWord v2 v3).getLsbD 15 = false := by
  rw [presentWord, copyLines_reserved, copyLines_reserved]
  decide

/-- The word after `MODEP` has the reserved bit clear. -/
theorem setField_presentWord_reserved (v2 v3 : Sample) (f : Field) (m : Bool) :
    (setField (presentWord v2 v3) f m).getLsbD 15 = false := by
  rw [setField_getLsbD, if_neg (by cases f <;> decide), presentWord_reserved]

/-- The word after `HOME` has the reserved bit of the word before `XYZM`. -/
theorem extraWord_reserved (v5 v6 : Sample) (w : Word) :
    (extraWord v5 v6 w).getLsbD 15 = w.getLsbD 15 := by
  rw [extraWord, copyLines_reserved, copyLines_reserved]

/-- `XYZM` and `HOME` write mode-exclusive fields only (41_decoder.md R126, R127). -/
theorem getField_extraWord_of_not_exclusive {f : Field} (h : Field.exclusive f = false)
    (v5 v6 : Sample) (w : Word) : getField (extraWord v5 v6 w) f = getField w f := by
  rw [extraWord, getField_copyLines_of_ne, getField_copyLines_of_ne] <;>
    (cases f <;> revert h <;> decide)

/-- Settles O33: what the enforcer answers is a decoded word, absence answers the zero word, and `m_new` is
the bit that `MODEP` wrote, which the enforcer leaves where there is presence. -/
theorem decodedWordsMeetTheProperties : Obligations.DecodedWordsMeetTheProperties := by
  intro raw mIn d hd
  obtain ⟨_, _, _, h⟩ | ⟨_, v2, v3, v4, -, -, -, -, -, -, h⟩ |
    ⟨_, v2, v3, _, v5, v6, -, -, -, -, -, -, -, -, h⟩ | ⟨_, _, _, _, h⟩ :=
    decodeSamples_cases raw mIn <;> rw [h] at hd <;> cases hd
  · exact ⟨by decide, by decide, fun _ => rfl⟩
  · refine ⟨wordOk_enforce (setField_presentWord_reserved ..), ?_, ?_⟩ <;>
      simp [getField_enforce, opposed, Field.opposite, Field.exclusive, presentWord_present]
  · refine ⟨wordOk_enforce ((extraWord_reserved ..).trans (setField_presentWord_reserved ..)), ?_, ?_⟩ <;>
      simp [getField_enforce, opposed, Field.opposite, Field.exclusive, presentWord_present,
        getField_extraWord_of_not_exclusive]

/-- The closed form of a decoded word, field by field in the line levels (41_decoder.md R135). -/
def closedForm (mIn : Bool) (v : Cycle → Sample) (f : Field) : Bool :=
  let m := lineLow (v 4) 0 && lineLow (v 4) 1
  lineLow (v 1) 2 && lineLow (v 1) 3 &&
    match f with
    | .present => true
    | .mode6 => m
    | .up => lineLow (v 3) 0 && !lineLow (v 3) 1
    | .down => lineLow (v 3) 1 && !lineLow (v 3) 0
    | .left => lineLow (v 3) 2 && !lineLow (v 3) 3
    | .right => lineLow (v 3) 3 && !lineLow (v 3) 2
    | .a => lineLow (v 2) 4
    | .b => lineLow (v 3) 4
    | .c => lineLow (v 3) 5
    | .x => mIn && m && lineLow (v 5) 2
    | .y => mIn && m && lineLow (v 5) 1
    | .z => mIn && m && lineLow (v 5) 0
    | .start => lineLow (v 2) 5
    | .mode => mIn && m && lineLow (v 5) 3
    | .home => mIn && m && lineLow (v 6) 0

/-- With the entries of the poll written, the decoder answers the closed form (41_decoder.md R135). -/
theorem decodeSamples_eq_closedForm {raw : RawBuffer} {mIn : Bool} {v : Cycle → Sample}
    (hv : ∀ c : Cycle, 1 ≤ c.val → c.val < ncyc mIn → raw.entry c = some (v c)) :
    ∃ d, decodeSamples raw mIn = .ok d ∧
      d.mNew = (lineLow (v 1) 2 && lineLow (v 1) 3 && (lineLow (v 4) 0 && lineLow (v 4) 1)) ∧
      ∀ f, getField d.w f = closedForm mIn v f := by
  have hlow : ∀ k, k < 5 → k < ncyc mIn := by intro k hk; cases mIn <;> simp [ncyc] <;> omega
  have h1 := hv 1 (by decide) (hlow _ (by decide))
  have h2 := hv 2 (by decide) (hlow _ (by decide))
  have h3 := hv 3 (by decide) (hlow _ (by decide))
  have h4 := hv 4 (by decide) (hlow _ (by decide))
  obtain ⟨v1, e1, hp, h⟩ | ⟨v1, v2, v3, v4, e1, e2, e3, e4, hp, he, h⟩ |
    ⟨v1, v2, v3, v4, v5, v6, e1, e2, e3, e4, e5, e6, hp, he, h⟩ | ⟨c, hc, hc1, hcn, -⟩ :=
    decodeSamples_cases raw mIn
  · cases h1.symm.trans e1
    exact ⟨_, h, by rw [hp, Bool.false_and], fun f => by simp [closedForm, hp]⟩
  · cases h1.symm.trans e1; cases h2.symm.trans e2; cases h3.symm.trans e3; cases h4.symm.trans e4
    refine ⟨_, h, by rw [hp, Bool.true_and], fun f => ?_⟩
    cases f <;> simp [closedForm, hp, he, getField_enforce, opposed, Field.opposite, Field.exclusive,
      presentWord, copyLines, cycleCopies]
  · cases h1.symm.trans e1; cases h2.symm.trans e2; cases h3.symm.trans e3; cases h4.symm.trans e4
    obtain ⟨hm, hprobe⟩ : mIn = true ∧ (lineLow (v 4) 0 && lineLow (v 4) 1) = true :=
      Bool.and_eq_true_iff.1 he
    subst hm
    cases (hv 5 (by decide) (by decide)).symm.trans e5
    cases (hv 6 (by decide) (by decide)).symm.trans e6
    refine ⟨_, h, by rw [hp, hprobe, Bool.and_self], fun f => ?_⟩
    cases f <;> simp [closedForm, hp, hprobe, getField_enforce, opposed, Field.opposite,
      Field.exclusive, extraWord, presentWord, copyLines, cycleCopies]
  · rw [hv c hc1 hcn] at hc
    cases hc

/-- A `DECODE` step with the decoder's result (43_session.md R164). -/
theorem exec_decode_of_ok {s : State} {d : Decoded} (h : decodeSamples s.raw s.mode6 = .ok d) :
    exec .decode s = .next (s.complete d) := by
  show afterRead (decodeSamples s.raw s.mode6) _ = _
  rw [h, afterRead_ok]

/-- A `DECODE` step that reads an unwritten entry (10_state.md R39). -/
theorem exec_decode_of_error {s : State} {c : Cycle} (h : decodeSamples s.raw s.mode6 = .error c) :
    exec .decode s = .fault (.rawUnwritten c) := by
  show afterRead (decodeSamples s.raw s.mode6) _ = _
  rw [h, afterRead_error]

/-- The completion of a poll as one record (43_session.md R164). -/
theorem complete_eq (d : Decoded) (s : State) :
    s.complete d = { s with
      word := d.w, mode6 := d.mNew, lastT := s.inputs.nowMs, ph := .idle,
      trace := s.trace ++ [.ret d.w] } := rfl

/-- Settles O32: the decoder answers the closed form, and the step completes with it. -/
theorem decodeStepMeetsTheClosedForm : Obligations.DecodeStepMeetsTheClosedForm := by
  intro s v hv
  obtain ⟨d, hd, hm, hf⟩ := decodeSamples_eq_closedForm hv
  obtain ⟨⟨-, -, -, -, h15⟩, -⟩ := decodedWordsMeetTheProperties _ _ _ hd
  refine ⟨s.complete d, exec_decode_of_ok hd, ?next, ?present, hf .mode6, ?up, ?down, ?left, ?right,
    hf .a, hf .b, hf .c, ?x, ?y, ?z, hf .start, ?mode, ?home, h15⟩
  case next => rw [complete_eq, hm]
  case present => exact (hf .present).trans (Bool.and_true _)
  all_goals
    rw [State.complete_word, hf, closedForm]
    simp only [Bool.and_assoc]

/-- A word without a mode-exclusive field has none of the bits of `0x6E00` (41_decoder.md R131). -/
theorem and_exclusiveMask_eq_zero {w : Word} (hx : getField w .x = false) (hy : getField w .y = false)
    (hz : getField w .z = false) (hmode : getField w .mode = false) (hhome : getField w .home = false) :
    w &&& 0x6E00#16 = 0#16 := by
  refine BitVec.eq_of_getLsbD_eq fun i hi => ?_
  simp only [getField, Field.bit] at hx hy hz hmode hhome
  rw [BitVec.getLsbD_and]
  interval_cases i <;> simp_all

/-- Settles O41: the new flag is the `m_new` of the closed form, and the mode-exclusive fields of the word
are 0 unless both flags are set. -/
theorem modeFlagFollowsTheTransitionTable : Obligations.ModeFlagFollowsTheTransitionTable := by
  intro s v hv
  obtain ⟨d, hd, hm, hf⟩ := decodeSamples_eq_closedForm hv
  obtain ⟨-, hflag, -⟩ := decodedWordsMeetTheProperties _ _ _ hd
  refine ⟨s.complete d, exec_decode_of_ok hd, hm, hflag, rfl, fun hboth => ?_⟩
  rw [State.complete_mode6, hm] at hboth
  apply and_exclusiveMask_eq_zero <;> rw [State.complete_word, hf] <;>
    · simp only [closedForm]
      grind

/-- Without presence the decoder answers the zero word from entry 1 alone: no later half is processed
(41_decoder.md R129). -/
theorem decodeSamples_of_absent {raw : RawBuffer} {mIn : Bool} {v : Sample} (h1 : raw.entry 1 = some v)
    (habsent : (lineLow v 2 && lineLow v 3) = false) :
    decodeSamples raw mIn = .ok { w := 0x0000#16, mNew := false } := by
  obtain ⟨hast, hdpad, hmodep, hxyzm, hhome⟩ :=
    mux_of_absent (d := ⟨setField 0x0000#16 .present false, false⟩) raw mIn (by simp)
  rw [decodeSamples_eq, muxPres_of_some h1, habsent]
  simp only [bind_ok, hast, hdpad, hmodep, hxyzm, hhome]
  rfl

/-- Settles O34: the step completes with the zero word and the belief false. -/
theorem absenceShortCircuitsTheDecode : Obligations.AbsenceShortCircuitsTheDecode :=
  fun _ _ h1 habsent => exec_decode_of_ok (decodeSamples_of_absent h1 habsent)

/-- Settles O40: the error of the decoder is an unwritten entry of the poll, and entry 1 is read first. -/
theorem decodeFaultsOnlyOnUnwrittenEntries : Obligations.DecodeFaultsOnlyOnUnwrittenEntries := by
  intro s
  constructor
  · intro h1
    refine exec_decode_of_error ?_
    rw [decodeSamples_eq, muxPres_of_none h1]
    rfl
  · intro f hf
    obtain ⟨_, _, _, h⟩ | ⟨_, _, _, _, -, -, -, -, -, -, h⟩ |
      ⟨_, _, _, _, _, _, -, -, -, -, -, -, -, -, h⟩ | ⟨c, hc, h1, hn, h⟩ :=
      decodeSamples_cases s.raw s.mode6
    case inr.inr.inr =>
      rw [exec_decode_of_error h] at hf
      cases hf
      exact ⟨c, rfl, hc, h1, hn⟩
    all_goals
      rw [exec_decode_of_ok h] at hf
      cases hf

/-- What a `DECODE` step returns: the decoder's word (10_state.md R32). -/
theorem returned_of_decode {s : State} {d : Decoded} (hph : s.ph = .decode)
    (hrst : s.inputs.rst = false) (hd : decodeSamples s.raw s.mode6 = .ok d) :
    s.returned = some d.w := by
  simp only [State.returned, hrst, hph, hd, Bool.false_eq_true, if_false]

/-- Settles O31: the completion of the poll, and its word at the ports. -/
theorem decodeStepPublishesTheResult : Obligations.DecodeStepPublishesTheResult := by
  intro s d hd
  refine ⟨exec_decode_of_ok hd, fun hph hrst => ?_⟩
  rw [State.ack, State.wordOut, returned_of_decode hph hrst hd]
  exact ⟨rfl, rfl⟩

/-- Settles O38: the step reads neither `WORD` nor `LAST_T`, and its completion overwrites both. -/
theorem previousWordHasNoInfluence : Obligations.PreviousWordHasNoInfluence := by
  intro s w t
  obtain ⟨d, hd, -⟩ | ⟨c, hc, -⟩ := State.decodeStep_cases s
  · exact (exec_decode_of_ok (s := { s with word := w, lastT := t }) hd).trans (exec_decode_of_ok hd).symm
  · exact (exec_decode_of_error (s := { s with word := w, lastT := t }) hc).trans
      (exec_decode_of_error hc).symm

end Sys2Proof.Proofs
end

section
/-! The decoder halves as steps of their own (log 9; 41_decoder.md R123 to R128, R134). -/

namespace Sys2Proof.Proofs

open Sys2Proof Sys2Proof.Machine

/-- The state with the word of a half in `WORD` (log 9). -/
def State.building (d : Decoded) (s : State) : State := { s with word := d.w }

/-- A decoder half whose entry is written leaves its word in `WORD`, and nothing else. -/
theorem decodeHalf_ok (d : Decoded) (s : State) : s.decodeHalf (.ok d) = .next (State.building d s) := rfl

/-- A decoder half that is not processed leaves the state as it is. -/
theorem decodeHalf_underConstruction (s : State) : s.decodeHalf (.ok s.underConstruction) = .next s := rfl

/-- The decoder halves in phase `DECODE`, each with its own function of the buffer and the word. -/
theorem exec_halves_of_decode {s : State} (hph : s.ph = .decode) :
    exec .pres s = s.decodeHalf (muxPres s.raw) ∧
    exec .ast s = s.decodeHalf (muxAst s.raw s.underConstruction) ∧
    exec .dpad s = s.decodeHalf (muxDpad s.raw s.underConstruction) ∧
    exec .modep s = s.decodeHalf (muxModep s.raw s.underConstruction) ∧
    exec .xyzm s = s.decodeHalf (muxXyzm s.raw s.mode6 s.underConstruction) ∧
    exec .home s = s.decodeHalf (muxHome s.raw s.mode6 s.underConstruction) :=
  ⟨exec_cycle_of_decode (p := (.pres, 1)) (by decide) hph,
    exec_cycle_of_decode (p := (.ast, 2)) (by decide) hph,
    exec_cycle_of_decode (p := (.dpad, 3)) (by decide) hph,
    exec_cycle_of_decode (p := (.modep, 4)) (by decide) hph,
    exec_cycle_of_decode (p := (.xyzm, 5)) (by decide) hph,
    exec_cycle_of_decode (p := (.home, 6)) (by decide) hph⟩

/-- A row of copies as a step: the lines of its entry go to the fields of its row. -/
theorem decodeHalf_muxCopies {s : State} {c : Cycle} {v : Sample} (h : s.raw.entry c = some v) :
    s.decodeHalf (muxCopies c s.raw s.underConstruction) =
      .next { s with word := copyLines (activate v) (cycleCopies c) s.word } := by
  rw [muxCopies_of_some _ h, decodeHalf_ok]
  rfl

/-- Settles O25: the word starts as the presence bit alone. -/
theorem presStartsTheWord : Obligations.PresStartsTheWord := by
  intro s v hph h1
  obtain ⟨hpres, -⟩ := exec_halves_of_decode hph
  rw [hpres, muxPres_of_some h1, decodeHalf_ok]
  cases lineLow v 2 && lineLow v 3 <;> rfl

/-- Settles O26: absent, nothing is processed; present, the two copies of row 2 of the cycle table. -/
theorem astWritesAAndStart : Obligations.AstWritesAAndStart := by
  intro s hph
  obtain ⟨-, hexec, -⟩ := exec_halves_of_decode hph
  constructor
  · intro habsent
    obtain ⟨hast, -⟩ := mux_of_absent (d := s.underConstruction) s.raw s.mode6 habsent
    rw [hexec, hast, decodeHalf_underConstruction]
  · intro v hp hv
    have hnext : exec .ast s =
        .next { s with word := copyLines (activate v) (cycleCopies 2) s.word } := by
      rw [hexec, muxAst_of_present (d := s.underConstruction) hp, decodeHalf_muxCopies hv]
    refine ⟨_, hnext, ?bitA, ?bitStart, ?rest⟩
    case rest =>
      intro k h6 h12
      exact copyLines_getLsbD_of_ne _ _ _ (by simp [cycleCopies, Field.bit, h6, h12])
    all_goals simp [copyLines, cycleCopies]

/-- Settles O27: absent, nothing is processed; present, the six copies of row 3 of the cycle table. -/
theorem dpadWritesSixButtons : Obligations.DpadWritesSixButtons := by
  intro s hph
  obtain ⟨-, -, hexec, -⟩ := exec_halves_of_decode hph
  constructor
  · intro habsent
    obtain ⟨-, hdpad, -⟩ := mux_of_absent (d := s.underConstruction) s.raw s.mode6 habsent
    rw [hexec, hdpad, decodeHalf_underConstruction]
  · intro v hp hv
    have hnext : exec .dpad s =
        .next { s with word := copyLines (activate v) (cycleCopies 3) s.word } := by
      rw [hexec, muxDpad_of_present (d := s.underConstruction) hp, decodeHalf_muxCopies hv]
    refine ⟨_, hnext, ?bitUp, ?bitDown, ?bitLeft, ?bitRight, ?bitB, ?bitC, ?rest⟩
    case rest =>
      intro k hk
      exact copyLines_getLsbD_of_ne _ _ _ (by simp [cycleCopies, Field.bit]; omega)
    all_goals simp [copyLines, cycleCopies]

/-- Settles O28: absent, nothing is processed; present, the probe goes to the `MODE6` bit. -/
theorem modepWritesTheProbe : Obligations.ModepWritesTheProbe := by
  intro s hph
  obtain ⟨-, -, -, hexec, -⟩ := exec_halves_of_decode hph
  constructor
  · intro habsent
    obtain ⟨-, -, hmodep, -⟩ := mux_of_absent (d := s.underConstruction) s.raw s.mode6 habsent
    rw [hexec, hmodep, decodeHalf_underConstruction]
  · intro v hp hv
    refine ⟨setField s.word .mode6 (lineLow v 0 && lineLow v 1), ?next, by simp, fun k hk => ?rest⟩
    case next =>
      rw [hexec, muxModep_of_some hp hv]
      rfl
    case rest => exact (setField_getLsbD ..).trans (if_neg hk)

/-- Settles O29: under the condition of R128 the four copies of row 5 of the cycle table, else nothing. -/
theorem xyzmWritesFourButtons : Obligations.XyzmWritesFourButtons := by
  intro s hph
  obtain ⟨-, -, -, -, hexec, -⟩ := exec_halves_of_decode hph
  constructor
  · intro hno
    obtain ⟨hxyzm, -⟩ := mux_of_no_extras (d := s.underConstruction) s.raw hno
    rw [hexec, hxyzm, decodeHalf_underConstruction]
  · intro v hextras hv
    have hnext : exec .xyzm s =
        .next { s with word := copyLines (activate v) (cycleCopies 5) s.word } := by
      rw [hexec, muxXyzm_of_extras (d := s.underConstruction) hextras, decodeHalf_muxCopies hv]
    refine ⟨_, hnext, ?z, ?y, ?x, ?mode, ?rest⟩
    case rest =>
      intro k hk
      exact copyLines_getLsbD_of_ne _ _ _ (by simp [cycleCopies, Field.bit]; omega)
    all_goals simp [copyLines, cycleCopies]

/-- Settles O30: under the condition of R128 the one copy of row 6 of the cycle table, else nothing. -/
theorem homeWritesHome : Obligations.HomeWritesHome := by
  intro s hph
  obtain ⟨-, -, -, -, -, hexec⟩ := exec_halves_of_decode hph
  constructor
  · intro hno
    obtain ⟨-, hhome⟩ := mux_of_no_extras (d := s.underConstruction) s.raw hno
    rw [hexec, hhome, decodeHalf_underConstruction]
  · intro v hextras hv
    have hnext : exec .home s =
        .next { s with word := copyLines (activate v) (cycleCopies 6) s.word } := by
      rw [hexec, muxHome_of_extras (d := s.underConstruction) hextras, decodeHalf_muxCopies hv]
    refine ⟨_, hnext, ?home, ?rest⟩
    case rest =>
      intro k hk
      exact copyLines_getLsbD_of_ne _ _ _ (by simp [cycleCopies, Field.bit, hk])
    case home => simp [copyLines, cycleCopies]

/-- `m_new` is the `MODE6` bit of the word under construction (41_decoder.md R136), so that the state between
two halves holds all that the next one reads (log 9). -/
def Decoded.Coherent (d : Decoded) : Prop := getField d.w .mode6 = d.mNew

/-- The next half finds what the last one has built. -/
theorem underConstruction_building {d : Decoded} (h : Decoded.Coherent d) (s : State) :
    (State.building d s).underConstruction = d := by
  rw [State.underConstruction, State.building, h]

/-- No row of copies writes the `MODE6` bit (30_encoding.md R74). -/
theorem muxCopies_coherent {c : Cycle} {raw : RawBuffer} {d d' : Decoded}
    (h : muxCopies c raw d = .ok d') (hd : Decoded.Coherent d) : Decoded.Coherent d' := by
  have hrow : ∀ c : Cycle, ∀ p ∈ cycleCopies c, p.2 ≠ .mode6 := by decide
  obtain ⟨v, hv, -⟩ | ⟨hv, -⟩ := raw.act_cases c
  · rw [muxCopies_of_some d hv] at h
    cases h
    exact (getField_copyLines_of_ne _ _ _ (hrow c)).trans hd
  · rw [muxCopies_of_none d hv] at h
    cases h

/-- `PRES` starts coherent. -/
theorem muxPres_coherent {raw : RawBuffer} {d : Decoded} (h : muxPres raw = .ok d) :
    Decoded.Coherent d := by
  obtain ⟨v, hv, -⟩ | ⟨hv, -⟩ := raw.act_cases 1
  · rw [muxPres_of_some hv] at h
    cases h
    simp [Decoded.Coherent]
  · rw [muxPres_of_none hv] at h
    cases h

/-- `MODEP` writes the bit and `m_new` alike. -/
theorem muxModep_coherent {raw : RawBuffer} {d d' : Decoded} (h : muxModep raw d = .ok d')
    (hd : Decoded.Coherent d) : Decoded.Coherent d' := by
  cases hp : getField d.w .present with
  | false =>
    obtain ⟨-, -, hmodep, -⟩ := mux_of_absent raw false hp
    cases hmodep.symm.trans h
    exact hd
  | true =>
    obtain ⟨v, hv, -⟩ | ⟨hv, -⟩ := raw.act_cases 4
    · rw [muxModep_of_some hp hv] at h
      cases h
      simp [Decoded.Coherent]
    · rw [muxModep_of_none hp hv] at h
      cases h

/-- A row of copies that is processed under a condition keeps coherence. -/
theorem ite_muxCopies_coherent {b : Bool} {c : Cycle} {raw : RawBuffer} {d d' : Decoded}
    (h : (if b then muxCopies c raw d else .ok d) = .ok d') (hd : Decoded.Coherent d) :
    Decoded.Coherent d' := by
  cases b with
  | false =>
    cases h
    exact hd
  | true => exact muxCopies_coherent h hd

/-- A bind that answers a value has passed through one. -/
theorem exists_of_bind_eq_ok {ε α β : Type} {x : Except ε α} {f : α → Except ε β} {r : β}
    (h : x.bind f = .ok r) : ∃ a, x = .ok a ∧ f a = .ok r := by
  cases x with
  | error e => cases h
  | ok a => exact ⟨a, rfl, h⟩

/-- The words between the six halves of a decode that answers (41_decoder.md R134). -/
theorem exists_halves_of_decodeSamples {raw : RawBuffer} {mIn : Bool} {d : Decoded}
    (h : decodeSamples raw mIn = .ok d) :
    ∃ d1 d2 d3 d4 d5 d6, muxPres raw = .ok d1 ∧ muxAst raw d1 = .ok d2 ∧ muxDpad raw d2 = .ok d3 ∧
      muxModep raw d3 = .ok d4 ∧ muxXyzm raw mIn d4 = .ok d5 ∧ muxHome raw mIn d5 = .ok d6 ∧
      d = { d6 with w := enforce d6.w } := by
  rw [decodeSamples_eq] at h
  obtain ⟨d5, h, h'⟩ := exists_of_bind_eq_ok h
  obtain ⟨d6, h6, hd⟩ := exists_of_bind_eq_ok h'
  obtain ⟨d4, h, h5⟩ := exists_of_bind_eq_ok h
  obtain ⟨d3, h, h4⟩ := exists_of_bind_eq_ok h
  obtain ⟨d2, h, h3⟩ := exists_of_bind_eq_ok h
  obtain ⟨d1, h1, h2⟩ := exists_of_bind_eq_ok h
  cases hd
  exact ⟨d1, d2, d3, d4, d5, d6, h1, h2, h3, h4, h5, h6, rfl⟩

/-- Settles O39: each half finds in the state what the one before it has built, since `m_new` is the word's
own `MODE6` bit throughout. -/
theorem decodeStepIsTheSixHalves : Obligations.DecodeStepIsTheSixHalves := by
  intro s t hph ht
  obtain ⟨d, hd, -⟩ | ⟨c, hc, -⟩ := State.decodeStep_cases s
  swap
  · rw [exec_decode_of_error hc] at ht
    cases ht
  rw [exec_decode_of_ok hd] at ht
  cases ht
  obtain ⟨d1, d2, d3, d4, d5, d6, h1, h2, h3, h4, h5, h6, rfl⟩ := exists_halves_of_decodeSamples hd
  have c1 := muxPres_coherent h1
  have c2 := ite_muxCopies_coherent h2 c1
  have c3 := ite_muxCopies_coherent h3 c2
  have c4 := muxModep_coherent h4 c3
  have c5 := ite_muxCopies_coherent h5 c4
  have c6 := ite_muxCopies_coherent h6 c5
  have hexec (d : Decoded) := exec_halves_of_decode (s := State.building d s) hph
  refine ⟨State.building d1 s, State.building d2 s, State.building d3 s, State.building d4 s,
    State.building d5 s, State.building d6 s, ?pres, ?ast, ?dpad, ?modep, ?xyzm, ?home, ?writes⟩
  case pres => rw [(exec_halves_of_decode hph).1, h1, decodeHalf_ok]
  case ast =>
    obtain ⟨-, hast, -⟩ := hexec d1
    rw [hast, underConstruction_building c1]
    exact congrArg (State.decodeHalf · _) h2
  case dpad =>
    obtain ⟨-, -, hdpad, -⟩ := hexec d2
    rw [hdpad, underConstruction_building c2]
    exact congrArg (State.decodeHalf · _) h3
  case modep =>
    obtain ⟨-, -, -, hmodep, -⟩ := hexec d3
    rw [hmodep, underConstruction_building c3]
    exact congrArg (State.decodeHalf · _) h4
  case xyzm =>
    obtain ⟨-, -, -, -, hxyzm, -⟩ := hexec d4
    rw [hxyzm, underConstruction_building c4]
    exact congrArg (State.decodeHalf · _) h5
  case home =>
    obtain ⟨-, -, -, -, -, hhome⟩ := hexec d5
    rw [hhome, underConstruction_building c5]
    exact congrArg (State.decodeHalf · _) h6
  case writes =>
    rw [complete_eq, State.building, c6]

end Sys2Proof.Proofs
end

section
/-! The lines that the decoder tests (30_encoding.md R79). -/

namespace Sys2Proof.Proofs

open Sys2Proof Sys2Proof.Machine

/-- Two samples with the same tested lines have the same level on each of them. -/
theorem lineLow_of_tested {c : Cycle} {v v' : Sample} {i : Nat}
    (h : v' &&& testedLines c = v &&& testedLines c) (hi : (testedLines c).getLsbD i = true) :
    lineLow v' i = lineLow v i := by
  have hbit := congrArg (BitVec.getLsbD · i) h
  simp only [BitVec.getLsbD_and, hi, Bool.and_true] at hbit
  rw [lineLow, lineLow, hbit]

/-- A row copies tested lines only (30_encoding.md R74, R79). -/
theorem tested_of_mem_cycleCopies :
    ∀ c : Cycle, ∀ p ∈ cycleCopies c, p.1 < 6 ∧ (testedLines c).getLsbD p.1 = true := by
  decide

/-- A row makes the same word of two samples that agree on the lines it copies. -/
theorem copyLines_congr {act act' : Sample} :
    ∀ (l : List (Nat × Field)) (w : Word), (∀ p ∈ l, act'.getLsbD p.1 = act.getLsbD p.1) →
      copyLines act' l w = copyLines act l w
  | [], _, _ => rfl
  | (line, g) :: rest, w, h => by
    rw [copyLines, copyLines, h (line, g) List.mem_cons_self]
    exact copyLines_congr rest _ fun p hp => h p (List.mem_cons_of_mem _ hp)

/-- An entry of two buffers that agree on the tested lines is unwritten in both, or written in both with the
same level on each tested line. -/
theorem entry_cases_of_sameTestedLines {raw raw' : RawBuffer} (h : sameTestedLines raw raw') {c : Cycle}
    (hc : c ≠ 0) :
    (raw.entry c = none ∧ raw'.entry c = none) ∨
    ∃ v v', raw.entry c = some v ∧ raw'.entry c = some v' ∧
      ∀ i, (testedLines c).getLsbD i = true → lineLow v' i = lineLow v i := by
  have hent := h c hc
  cases hv : raw.entry c <;> cases hv' : raw'.entry c <;> rw [hv, hv'] at hent
  case none.none => exact .inl ⟨rfl, rfl⟩
  case some.some v v' =>
    exact .inr ⟨v, v', rfl, rfl, fun i => lineLow_of_tested (Option.some.inj hent)⟩
  all_goals cases hent

section
variable {raw raw' : RawBuffer} (h : sameTestedLines raw raw')
include h

/-- A row of copies reads tested lines only. -/
theorem muxCopies_congr {c : Cycle} (hc : c ≠ 0) (d : Decoded) :
    muxCopies c raw' d = muxCopies c raw d := by
  obtain ⟨hn, hn'⟩ | ⟨v, v', hv, hv', hlines⟩ := entry_cases_of_sameTestedLines h hc
  · rw [muxCopies_of_none d hn, muxCopies_of_none d hn']
  · rw [muxCopies_of_some d hv, muxCopies_of_some d hv', copyLines_congr]
    intro p hp
    obtain ⟨hlt, htested⟩ := tested_of_mem_cycleCopies c p hp
    rw [activate_getLsbD _ _ hlt, activate_getLsbD _ _ hlt, hlines _ htested]

/-- `PRES` reads lines 2 and 3 only. -/
theorem muxPres_congr : muxPres raw' = muxPres raw := by
  obtain ⟨hn, hn'⟩ | ⟨v, v', hv, hv', hlines⟩ := entry_cases_of_sameTestedLines h (c := 1) (by decide)
  · rw [muxPres_of_none hn, muxPres_of_none hn']
  · rw [muxPres_of_some hv, muxPres_of_some hv', hlines 2 (by decide), hlines 3 (by decide)]

/-- `MODEP` reads lines 0 and 1 only. -/
theorem muxModep_congr (d : Decoded) : muxModep raw' d = muxModep raw d := by
  cases hp : getField d.w .present with
  | false =>
    obtain ⟨-, -, hm, -⟩ := mux_of_absent raw false hp
    obtain ⟨-, -, hm', -⟩ := mux_of_absent raw' false hp
    rw [hm, hm']
  | true =>
    obtain ⟨hn, hn'⟩ | ⟨v, v', hv, hv', hlines⟩ := entry_cases_of_sameTestedLines h (c := 4) (by decide)
    · rw [muxModep_of_none hp hn, muxModep_of_none hp hn']
    · rw [muxModep_of_some hp hv, muxModep_of_some hp hv', hlines 0 (by decide), hlines 1 (by decide)]

/-- The whole decoder reads tested lines only. -/
theorem decodeSamples_congr (mIn : Bool) : decodeSamples raw' mIn = decodeSamples raw mIn := by
  have hast : muxAst raw' = muxAst raw := funext fun d => by
    rw [muxAst, muxAst, muxCopies_congr h (by decide)]
  have hdpad : muxDpad raw' = muxDpad raw := funext fun d => by
    rw [muxDpad, muxDpad, muxCopies_congr h (by decide)]
  have hxyzm : muxXyzm raw' mIn = muxXyzm raw mIn := funext fun d => by
    rw [muxXyzm, muxXyzm, muxCopies_congr h (by decide)]
  have hhome : muxHome raw' mIn = muxHome raw mIn := funext fun d => by
    rw [muxHome, muxHome, muxCopies_congr h (by decide)]
  rw [decodeSamples_eq, decodeSamples_eq, muxPres_congr h, hast, hdpad, funext (muxModep_congr h), hxyzm,
    hhome]

end

/-- Settles O37: the decoder answers the same on both buffers, and the completion keeps each buffer. -/
theorem ignoredLinesHaveNoEffect : Obligations.IgnoredLinesHaveNoEffect := by
  intro s raw' h
  have hsame : decodeSamples raw' s.mode6 = decodeSamples s.raw s.mode6 := decodeSamples_congr h s.mode6
  obtain ⟨d, hd, -⟩ | ⟨c, hc, -⟩ := State.decodeStep_cases s
  · rw [exec_decode_of_ok hd, exec_decode_of_ok (s := { s with raw := raw' }) (hsame.trans hd)]
    rfl
  · rw [exec_decode_of_error hc, exec_decode_of_error (s := { s with raw := raw' }) (hsame.trans hc)]
    rfl

end Sys2Proof.Proofs
end

section
/-! What a step without `rst` answers, phase by phase (43_session.md R160). -/

namespace Sys2Proof.Proofs

open Sys2Proof Sys2Proof.Machine

section
variable {s : State} (hrst : (s.inputAt 0).rst = false)
include hrst

/-- A tick in `DRIVE` (40_sequencer.md R106). -/
theorem step_of_drive (hph : s.ph = .drive) : step s = .next (s.sampleInputs.driveCycle s.cyc) := by
  simp [step_eq, hrst, hph]

/-- A tick in `SETTLE` (40_sequencer.md R107). -/
theorem step_of_settle (hph : s.ph = .settle) : step s = .next s.sampleInputs.settleTick := by
  simp [step_eq, hrst, hph]

/-- A tick in `SAMPLE` (40_sequencer.md R108, R109). -/
theorem step_of_sample (hph : s.ph = .sample) : step s = s.sampleInputs.sampleCycle s.cyc := by
  simp [step_eq, hrst, hph]

/-- A tick in `DECODE` (43_session.md R164). -/
theorem step_of_decode (hph : s.ph = .decode) : step s = s.sampleInputs.decodeStep := by
  simp [step_eq, hrst, hph]

/-- A tick in `IDLE` without a request (43_session.md R165). -/
theorem step_of_idle_quiet (hph : s.ph = .idle) (hreq : (s.inputAt 0).pollReq = false) :
    step s = .next s.sampleInputs := by
  simp [step_eq, hrst, hph, hreq]

/-- A tick in `IDLE` with a request: cached below `T_MIN`, else accepted (43_session.md R161 to R163). -/
theorem step_of_idle_request (hph : s.ph = .idle) (hreq : (s.inputAt 0).pollReq = true) :
    step s = .next (if ((s.inputAt 0).nowMs - s.lastT).toNat < s.params.tMin
      then s.sampleInputs.cachedReturn else s.sampleInputs.accept) := by
  rw [step_eq, if_neg (by simp [hrst]), hph]
  simp only [hreq, if_true]
  rw [State.pollIdle_eq, State.sampleInputs_inputs, State.nextInputs_eq]
  rfl

variable {t : State} (h : step s = .next t)
include h

/-- The next state of a `DRIVE` tick. -/
theorem next_of_drive (hph : s.ph = .drive) : t = s.sampleInputs.driveCycle s.cyc := by
  cases h.symm.trans (step_of_drive hrst hph)
  rfl

/-- The next state of a `SETTLE` tick. -/
theorem next_of_settle (hph : s.ph = .settle) : t = s.sampleInputs.settleTick := by
  cases h.symm.trans (step_of_settle hrst hph)
  rfl

/-- The two next states of a `SAMPLE` tick. -/
theorem next_of_sample (hph : s.ph = .sample) :
    (s.cyc.val + 1 = ncyc s.mode6 ∧ t = (s.sampleInputs.capture s.cyc).finishSampling) ∨
    (s.cyc.val + 1 ≠ ncyc s.mode6 ∧ ∃ hc : s.cyc.val + 1 < 7,
      t = { s.sampleInputs.capture s.cyc with cyc := ⟨s.cyc.val + 1, hc⟩, ph := .drive }) := by
  rw [step_of_sample hrst hph] at h
  obtain ⟨hlast, hnext⟩ | ⟨hne, hc, hnext⟩ | ⟨-, -, href⟩ :=
    State.sampleCycle_cases s.cyc s.sampleInputs
  · rw [hnext] at h
    cases h
    exact .inl ⟨hlast, rfl⟩
  · rw [hnext] at h
    cases h
    exact .inr ⟨hne, hc, rfl⟩
  · rw [href] at h
    cases h

/-- The next state of a `DECODE` tick. -/
theorem next_of_decode (hph : s.ph = .decode) :
    ∃ d, decodeSamples s.raw s.mode6 = .ok d ∧ t = s.sampleInputs.complete d := by
  rw [step_of_decode hrst hph] at h
  obtain ⟨d, hd, hnext⟩ | ⟨c, -, hfault⟩ := s.sampleInputs.decodeStep_cases
  · rw [hnext] at h
    cases h
    exact ⟨d, hd, rfl⟩
  · rw [hfault] at h
    cases h

/-- The three next states of an `IDLE` tick. -/
theorem next_of_idle (hph : s.ph = .idle) :
    ((s.inputAt 0).pollReq = false ∧ t = s.sampleInputs) ∨
    ((s.inputAt 0).pollReq = true ∧ ((s.inputAt 0).nowMs - s.lastT).toNat < s.params.tMin ∧
      t = s.sampleInputs.cachedReturn) ∨
    ((s.inputAt 0).pollReq = true ∧ ¬((s.inputAt 0).nowMs - s.lastT).toNat < s.params.tMin ∧
      t = s.sampleInputs.accept) := by
  cases hreq : (s.inputAt 0).pollReq with
  | false =>
    cases h.symm.trans (step_of_idle_quiet hrst hph hreq)
    exact .inl ⟨rfl, rfl⟩
  | true =>
    cases h.symm.trans (step_of_idle_request hrst hph hreq)
    by_cases hlim : ((s.inputAt 0).nowMs - s.lastT).toNat < s.params.tMin
    · exact .inr (.inl ⟨rfl, hlim, if_pos hlim⟩)
    · exact .inr (.inr ⟨rfl, hlim, if_neg hlim⟩)

end

/-- The next state of a tick with `rst = 1`. -/
theorem next_of_rst {s t : State} (hrst : (s.inputAt 0).rst = true) (h : step s = .next t) :
    t = s.sampleInputs.resetEngine := by
  cases h.symm.trans (step_of_rst hrst)
  rfl

end Sys2Proof.Proofs
end

section
/-! The invariant (10_state.md R35): it holds at reset, and each of the ways a step can go keeps it. -/

namespace Sys2Proof.Proofs

open Sys2Proof Sys2Proof.Machine

/-- `RESET` establishes the invariant from any state with well-formed parameters (10_state.md R37). -/
theorem inv_resetEngine {s : State} (hp : s.params.wf) : s.resetEngine.Inv where
  word := (by decide : WordOk 0x0000#16)
  flag := ⟨getField_zero .mode6, fun _ => rfl⟩
  mask := by simp [State.MaskOk]
  cycle := by simp [State.CycleOk]
  samples := by simp [State.SamplesOk]
  select := by simp [State.SelectOk]
  settle := by simp [State.SettleOk]
  params := hp

/-- Settles O42: `RESET` of the reset state is the reset state, and its parameters are within the bounds. -/
theorem resetMeetsTheInvariant : Obligations.ResetMeetsTheInvariant :=
  have hp : State.reset.params.wf := ⟨Nat.le_add_left 1 Config.settleBeyondOne, Nat.le_refl 3⟩
  (inv_resetEngine hp : State.reset.resetEngine.Inv)

/-- The invariant does not speak of the ports and the trace. -/
theorem inv_sampleInputs {s : State} (h : s.Inv) : s.sampleInputs.Inv :=
  ⟨h.word, h.flag, h.mask, h.cycle, h.samples, h.select, h.settle, h.params⟩

/-- A cached return keeps the invariant: it writes no state element (43_session.md R162). -/
theorem inv_cachedReturn {s : State} (h : s.Inv) : s.cachedReturn.Inv :=
  ⟨h.word, h.flag, h.mask, h.cycle, h.samples, h.select, h.settle, h.params⟩

section
variable {s : State} (h : s.Inv)
include h

/-- The accept step keeps the invariant: cycle 0 starts with nothing sampled (43_session.md R163). -/
theorem inv_accept (hph : s.ph = .idle) : s.accept.Inv where
  word := h.word
  flag := h.flag
  mask := by simp [State.MaskOk]
  cycle := by cases hm : s.mode6 <;> simp [State.CycleOk, ncyc, hm]
  samples := by simp [State.SamplesOk]
  select := by simpa [State.SelectOk] using h.select.1 (.inl hph)
  settle := by
    obtain ⟨hwidth, -, hzero⟩ := h.settle
    exact ⟨hwidth, by simp, fun _ => hzero (by simp [hph])⟩
  params := h.params

/-- `DRIVE` keeps the invariant: the level of the cycle, and the whole wait to come (40_sequencer.md
R106). -/
theorem inv_driveCycle (hph : s.ph = .drive) : (s.driveCycle s.cyc).Inv where
  word := h.word
  flag := h.flag
  mask := by simpa [State.MaskOk] using h.mask.2 (.inl hph)
  cycle := ⟨fun _ => h.cycle.1 (by simp [hph]), by simp⟩
  samples c := ⟨fun _ => (h.samples c).1 (.inl hph), by simp⟩
  select := by simp [State.SelectOk]
  settle := by simpa [State.SettleOk] using h.params.1
  params := h.params

/-- A tick that does not end the wait keeps the invariant: the counter stays at least 1
(40_sequencer.md R107). -/
theorem inv_settle_dec (hph : s.ph = .settle) (hsc : 1 < s.sc.count) :
    ({ s with sc := s.sc.dec } : State).Inv where
  word := h.word
  flag := h.flag
  mask := h.mask
  cycle := h.cycle
  samples := h.samples
  select := h.select
  settle := by
    obtain ⟨hwidth, hbounds, -⟩ := h.settle
    have hle := (hbounds hph).2
    have hdec := SettleCounter.count_dec (Nat.le_of_lt hsc)
    refine ⟨hwidth, fun _ => ?_, fun hne => absurd hph hne⟩
    simp only [hdec]
    omega
  params := h.params

/-- The tick that ends the wait keeps the invariant: the counter is 0 outside `SETTLE`
(40_sequencer.md R107). -/
theorem inv_settle_end (hph : s.ph = .settle) :
    ({ s with sc := SettleCounter.zero s.sc.width, ph := .sample } : State).Inv where
  word := h.word
  flag := h.flag
  mask := by simpa [State.MaskOk] using h.mask.2 (.inr (.inl hph))
  cycle := ⟨fun _ => h.cycle.1 (by simp [hph]), by simp⟩
  samples c := ⟨fun _ => (h.samples c).1 (.inr (.inl hph)), by simp⟩
  select := ⟨by simp, by simp, fun _ => h.select.2.2 (.inl hph)⟩
  settle := ⟨h.settle.1, by simp, fun _ => SettleCounter.count_zero _⟩
  params := h.params

/-- After the capture of a cycle, the entries up to that cycle are written (10_state.md R27). -/
theorem isSome_entry_capture (hph : s.ph = .sample) {c : Cycle} (hc : c.val ≤ s.cyc.val) :
    (((s.capture s.cyc).raw.entry c).isSome) = true := by
  rw [State.capture_raw, RawBuffer.entry_write]
  by_cases heq : c = s.cyc
  · rw [if_pos heq, Option.isSome_some]
  · rw [if_neg heq]
    exact (h.samples c).1 (.inr (.inr hph)) (Nat.lt_of_le_of_ne hc fun e => heq (Fin.ext e))

/-- The counter is 0 in a `SAMPLE` step and stays so. -/
theorem settleOk_of_sample {t : State} (hph : s.ph = .sample) (hsc : t.sc = s.sc)
    (hp : t.params = s.params) (ht : t.ph ≠ .settle) : t.SettleOk := by
  obtain ⟨hwidth, -, hzero⟩ := h.settle
  refine ⟨by rw [hsc, hp, hwidth], fun hset => absurd hset ht, fun _ => ?_⟩
  rw [hsc]
  exact hzero (by simp [hph])

/-- The last `SAMPLE` step keeps the invariant: every entry of the poll is written, and the level of the last
cycle, an even one, is high (40_sequencer.md R104, R109). -/
theorem inv_finishSampling (hph : s.ph = .sample) (hlast : s.cyc.val + 1 = ncyc s.mode6) :
    (s.capture s.cyc).finishSampling.Inv where
  word := h.word
  flag := h.flag
  mask := by simp [State.MaskOk]
  cycle := by
    show (_ → s.cyc.val < ncyc s.mode6) ∧ (_ → s.cyc.val = ncyc s.mode6 - 1)
    omega
  samples c := ⟨by simp, fun _ hc => isSome_entry_capture h hph hc⟩
  select := by
    have hlevel : s.sel = true := by
      rw [h.select.2.2 (.inr hph), selLevel_eq, decide_eq_true_eq]
      cases hm : s.mode6 <;> simp [hm, ncyc] at hlast <;> omega
    simp [State.SelectOk, hlevel]
  settle := settleOk_of_sample h hph rfl rfl (by simp)
  params := h.params

/-- A `SAMPLE` step that is not the last keeps the invariant: the next index is one of the poll's, and the
levels of two successive cycles differ (40_sequencer.md R104, R109). -/
theorem inv_advance (hph : s.ph = .sample) (hne : s.cyc.val + 1 ≠ ncyc s.mode6)
    (hc : s.cyc.val + 1 < 7) :
    ({ s.capture s.cyc with cyc := ⟨s.cyc.val + 1, hc⟩, ph := .drive } : State).Inv where
  word := h.word
  flag := h.flag
  mask := by simpa [State.MaskOk] using h.mask.2 (.inr (.inr hph))
  cycle := by
    have hlt : s.cyc.val < ncyc s.mode6 := h.cycle.1 (by simp [hph])
    exact ⟨fun _ => show s.cyc.val + 1 < ncyc s.mode6 by omega, by simp⟩
  samples c := ⟨fun _ hlt => isSome_entry_capture h hph (Nat.le_of_lt_succ hlt), by simp⟩
  select := by
    have hlevel : s.sel = !selLevel ⟨s.cyc.val + 1, hc⟩ := by
      rw [h.select.2.2 (.inr hph), selLevel_eq, selLevel_eq, ← decide_not, decide_eq_decide]
      show s.cyc.val % 2 = 0 ↔ ¬(s.cyc.val + 1) % 2 = 0
      omega
    have hnext : (⟨s.cyc.val + 1, hc⟩ : Cycle) ≠ 0 := fun h0 => by simpa using congrArg Fin.val h0
    simp [State.SelectOk, hlevel, hnext]
  settle := settleOk_of_sample h hph rfl rfl (by simp)
  params := h.params

/-- The completion of a poll keeps the invariant: the new word is a decoded one, and the flag is its own
(41_decoder.md R136). -/
theorem inv_complete (hph : s.ph = .decode) {d : Decoded} (hd : decodeSamples s.raw s.mode6 = .ok d) :
    (s.complete d).Inv := by
  obtain ⟨hword, hflag, habsent⟩ := decodedWordsMeetTheProperties _ _ _ hd
  have him : s.im = false := by simpa [State.MaskOk, hph] using h.mask
  obtain ⟨hwidth, -, hzero⟩ := h.settle
  exact
    { word := hword
      flag := ⟨hflag, habsent⟩
      mask := by simp [State.MaskOk, him]
      cycle := by simp [State.CycleOk]
      samples := by simp [State.SamplesOk]
      select := by simpa [State.SelectOk] using h.select.1 (.inr hph)
      settle := ⟨hwidth, by simp, fun _ => hzero (by simp [hph])⟩
      params := h.params }

end

/-- Settles O43: the ten ways a step can go, each of which keeps the invariant. -/
theorem everyStepKeepsTheInvariant : Obligations.EveryStepKeepsTheInvariant := by
  intro s t hinv h
  have hi := inv_sampleInputs hinv
  obtain ⟨-, rfl⟩ | ⟨-, hstep⟩ := step_cases h
  · exact inv_resetEngine hi.params
  obtain ⟨-, -, rfl⟩ | ⟨-, -, -, rfl⟩ | ⟨hph, -, -, rfl⟩ | ⟨hph, rfl⟩ | ⟨hph, hsc, rfl⟩ |
    ⟨hph, -, rfl⟩ | ⟨hph, hlast, rfl⟩ | ⟨hph, hne, hc, rfl⟩ | ⟨hph, d, hd, rfl⟩ := hstep
  · exact hi
  · exact inv_cachedReturn hi
  · exact inv_accept hi hph
  · exact inv_driveCycle hi hph
  · exact inv_settle_dec hi hph hsc
  · exact inv_settle_end hi hph
  · exact inv_finishSampling hi hph hlast
  · exact inv_advance hi hph hne hc
  · exact inv_complete hi hph hd

/-- Under the invariant a `SAMPLE` step is not at an index whose increment is refused (10_state.md R25). -/
theorem sampleCycle_completes {s : State} (h : s.Inv) (hph : s.ph = .sample) :
    Completes (s.sampleCycle s.cyc) := by
  obtain ⟨-, hnext⟩ | ⟨-, _, hnext⟩ | ⟨hc, hm, -⟩ := State.sampleCycle_cases s.cyc s
  · exact ⟨_, hnext⟩
  · exact ⟨_, hnext⟩
  · cases hm.symm.trans ((indexSevenIsRefused s).2.2 h hph hc)

/-- Under the invariant a `DECODE` step reads written entries only (10_state.md R27, R39). -/
theorem decodeStep_completes {s : State} (h : s.Inv) (hph : s.ph = .decode) :
    Completes s.decodeStep := by
  obtain ⟨d, -, hnext⟩ | ⟨c, -, hfault⟩ := s.decodeStep_cases
  · exact ⟨_, hnext⟩
  · obtain ⟨-, honly⟩ := decodeFaultsOnlyOnUnwrittenEntries s
    obtain ⟨e, -, hnone, -, hlt⟩ := honly _ hfault
    have hlast : s.cyc.val = ncyc s.mode6 - 1 := h.cycle.2 hph
    have hsome := (h.samples e).2 hph (by rw [hlast, ncyc_eq]; omega)
    rw [hnone] at hsome
    cases hsome

/-- Settles O44: `SAMPLE` and `DECODE` alone can stop, and the invariant excludes both. -/
theorem invariantStatesNeverStop : Obligations.InvariantStatesNeverStop := by
  intro s h
  cases hrst : (s.inputAt 0).rst with
  | true => exact ⟨_, step_of_rst hrst⟩
  | false =>
    cases hph : s.ph with
    | idle =>
      rw [step_eq, if_neg (by simp [hrst]), hph]
      exact ⟨_, rfl⟩
    | drive => exact ⟨_, step_of_drive hrst hph⟩
    | settle => exact ⟨_, step_of_settle hrst hph⟩
    | sample =>
      rw [step_of_sample hrst hph]
      exact sampleCycle_completes (inv_sampleInputs h) hph
    | decode =>
      rw [step_of_decode hrst hph]
      exact decodeStep_completes (inv_sampleInputs h) hph

/-- Settles O60: every tick of a run starts from a state that meets the invariant, the reset state with any
ports to come being one. -/
theorem noRunStops : Obligations.NoRunStops := by
  have hrun : ∀ (n : Nat) (s : State), s.Inv → Completes (run n s) := by
    intro n
    induction n with
    | zero => exact fun s _ => ⟨s, rfl⟩
    | succ n ih =>
      intro s h
      obtain ⟨t, ht⟩ := invariantStatesNeverStop s h
      rw [run_succ_of_step ht]
      exact ih t (everyStepKeepsTheInvariant s t h ht)
  refine ⟨hrun, fun n ports => hrun n _ ?_⟩
  have h : State.reset.Inv := resetMeetsTheInvariant
  exact ⟨h.word, h.flag, h.mask, h.cycle, h.samples, h.select, h.settle, h.params⟩

/-- Settles O53: the level before `DRIVE` is that of the cycle before, and before cycle 0 it is high. -/
theorem driveTogglesExceptInCycleZero : Obligations.DriveTogglesExceptInCycleZero := by
  intro s t hinv hph hrst h
  rw [next_of_drive hrst h hph, State.driveCycle_sel, hinv.select.2.1 hph]
  cases hc : decide (s.cyc = 0) with
  | true =>
    rw [of_decide_eq_true hc]
    decide
  | false => simp [of_decide_eq_false hc]

end Sys2Proof.Proofs
end

section
/-! What a step writes, emits and shows at the ports (10_state.md R21 to R33, 40_sequencer.md R114). -/

namespace Sys2Proof.Proofs

open Sys2Proof Sys2Proof.Machine

/-- Settles O45: of the phases only `DECODE` completes a poll, and no other operation writes the result. -/
theorem resultIsWrittenOnlyByDecodeAndReset : Obligations.ResultIsWrittenOnlyByDecodeAndReset := by
  intro s t h hrst hdec
  cases hph : s.ph with
  | idle =>
    obtain ⟨-, rfl⟩ | ⟨-, -, rfl⟩ | ⟨-, -, rfl⟩ := next_of_idle hrst h hph <;> exact ⟨rfl, rfl, rfl⟩
  | drive => cases next_of_drive hrst h hph; exact ⟨rfl, rfl, rfl⟩
  | settle => cases next_of_settle hrst h hph; simp
  | sample =>
    obtain ⟨-, rfl⟩ | ⟨-, _, rfl⟩ := next_of_sample hrst h hph <;> exact ⟨rfl, rfl, rfl⟩
  | decode => exact absurd hph hdec

/-- Settles O46: the one write of `SEL` and the two of `IM` among the next states of each phase. -/
theorem selectAndMaskHaveTheirWriters : Obligations.SelectAndMaskHaveTheirWriters := by
  intro s t h hrst
  cases hph : s.ph with
  | idle =>
    obtain ⟨-, rfl⟩ | ⟨-, -, rfl⟩ | ⟨hreq, hlim, rfl⟩ := next_of_idle hrst h hph
    · simp +contextual
    · simp +contextual
    · exact ⟨by simp, fun _ _ => ⟨rfl, hreq, hlim⟩, by simp⟩
  | drive => cases next_of_drive hrst h hph; simp +contextual
  | settle => cases next_of_settle hrst h hph; simp +contextual
  | sample =>
    obtain ⟨hlast, rfl⟩ | ⟨-, _, rfl⟩ := next_of_sample hrst h hph
    · exact ⟨by simp, by simp, fun _ _ => ⟨rfl, hlast⟩⟩
    · simp +contextual
  | decode =>
    obtain ⟨d, -, rfl⟩ := next_of_decode hrst h hph
    simp +contextual

/-- The buffer after a step without `rst`: the capture of a `SAMPLE` step, else as before. -/
theorem raw_of_step {s t : State} (hrst : (s.inputAt 0).rst = false) (h : step s = .next t) :
    t.raw = if s.ph = .sample then s.raw.write s.cyc (s.inputAt 0).lines else s.raw := by
  cases hph : s.ph with
  | idle => obtain ⟨-, rfl⟩ | ⟨-, -, rfl⟩ | ⟨-, -, rfl⟩ := next_of_idle hrst h hph <;> rfl
  | drive => cases next_of_drive hrst h hph; rfl
  | settle => cases next_of_settle hrst h hph; simp
  | sample =>
    obtain ⟨-, rfl⟩ | ⟨-, _, rfl⟩ := next_of_sample hrst h hph <;> simp [State.nextInputs_eq]
  | decode => obtain ⟨d, -, rfl⟩ := next_of_decode hrst h hph; rfl

/-- Settles O47: the capture of a `SAMPLE` step writes the entry of its cycle, and marks it. -/
theorem bufferIsWrittenOnlyBySample : Obligations.BufferIsWrittenOnlyBySample := by
  intro s t h hrst c
  rw [raw_of_step hrst h]
  by_cases hph : s.ph = .sample
  · simpa [hph] using ⟨s.raw.values_write s.cyc c (s.inputAt 0).lines,
      s.raw.written_write s.cyc c (s.inputAt 0).lines⟩
  · simp [hph]

/-- Settles O48: the phase and the index in the next states of each phase. -/
theorem phaseAndCycleSuccessors : Obligations.PhaseAndCycleSuccessors := by
  intro s t h hrst
  cases hph : s.ph with
  | idle =>
    obtain ⟨-, rfl⟩ | ⟨-, -, rfl⟩ | ⟨-, -, rfl⟩ := next_of_idle hrst h hph
    · exact .inl ⟨hph, rfl⟩
    · exact .inl ⟨hph, rfl⟩
    · exact .inr ⟨rfl, rfl⟩
  | drive => cases next_of_drive hrst h hph; exact ⟨rfl, rfl⟩
  | settle =>
    cases next_of_settle hrst h hph
    refine ⟨?_, State.settleTick_cyc _⟩
    obtain ⟨-, htick⟩ | ⟨-, htick⟩ := s.sampleInputs.settleTick_cases <;> rw [htick]
    · exact .inl hph
    · exact .inr rfl
  | sample =>
    obtain ⟨hlast, rfl⟩ | ⟨-, _, rfl⟩ := next_of_sample hrst h hph
    · exact .inl ⟨rfl, rfl, hlast⟩
    · exact .inr ⟨rfl, rfl⟩
  | decode =>
    obtain ⟨d, -, rfl⟩ := next_of_decode hrst h hph
    exact ⟨rfl, rfl⟩

/-- Settles O51: the trace in the next states of each phase. -/
theorem eventsOfEveryStep : Obligations.EventsOfEveryStep := by
  intro s t h
  constructor
  · intro hrst
    rw [next_of_rst hrst h]
    rfl
  · intro hrst
    refine ⟨fun hph hreq => ?quiet, fun hph hreq => ?request, fun hph => ?drive, fun hph => ?settle,
      fun hph => ?sample, fun hph => ?decode⟩
    case quiet =>
      cases h.symm.trans (step_of_idle_quiet hrst hph hreq)
      rfl
    case request =>
      obtain ⟨hno, -⟩ | ⟨-, -, rfl⟩ | ⟨-, -, rfl⟩ := next_of_idle hrst h hph
      · cases hreq.symm.trans hno
      · simp [hph]
      · simp
    case drive => cases next_of_drive hrst h hph; rfl
    case settle => cases next_of_settle hrst h hph; simp
    case sample =>
      obtain ⟨-, rfl⟩ | ⟨-, _, rfl⟩ := next_of_sample hrst h hph <;> simp [State.nextInputs_eq]
    case decode => obtain ⟨d, -, rfl⟩ := next_of_decode hrst h hph; rfl

/-- In a busy phase before `DECODE` nothing is returned (10_state.md R32). -/
theorem returned_of_busy {s : State} (hph : s.ph = .drive ∨ s.ph = .settle ∨ s.ph = .sample) :
    s.returned = none := by
  obtain h | h | h := hph <;> simp [State.returned, h]

/-- A step that returns nothing raises no `ack` and shows `WORD` (10_state.md R32). -/
theorem ports_of_returned_none {s : State} (h : s.returned = none) {evs : List Event}
    (hevs : ∀ w, Event.ret w ∉ evs) :
    (∀ w, Event.ret w ∈ evs ↔ s.ack = true ∧ s.wordOut = w) ∧ s.wordOut = s.word := by
  simp [State.ack, State.wordOut, h, hevs]

/-- A step that returns a word raises `ack` and shows it (10_state.md R32). -/
theorem ports_of_returned_some {s : State} {u : Word} (h : s.returned = some u) :
    (∀ w, Event.ret w ∈ [Event.ret u] ↔ s.ack = true ∧ s.wordOut = w) ∧ s.wordOut = u := by
  simp [State.ack, State.wordOut, h, eq_comm]

/-- Settles O50: the events of each way a step can go, against the word that the ports return in it. -/
theorem ackAndWordOutFollowTheReturn : Obligations.AckAndWordOutFollowTheReturn := by
  intro s t h
  have hport : s.sampleInputs.inputs = s.inputAt 0 := s.nextInputs_eq
  cases hrst : (s.inputAt 0).rst with
  | true =>
    obtain ⟨hack, -⟩ := ports_of_returned_none (s := s.sampleInputs) (evs := [])
      (returned_of_rst (by rw [hport, hrst])) (by simp)
    rw [next_of_rst hrst h]
    exact ⟨[], by simp, hack, fun hno => by cases hno⟩
  | false =>
    have hno : s.sampleInputs.inputs.rst = false := by rw [hport, hrst]
    have hbusy (evs : List Event) (hph : s.ph = .drive ∨ s.ph = .settle ∨ s.ph = .sample)
        (hevs : ∀ w, Event.ret w ∉ evs) :=
      ports_of_returned_none (returned_of_busy (s := s.sampleInputs) hph) hevs
    cases hph : s.ph with
    | idle =>
      have hret := returned_of_idle (s := s.sampleInputs) hph hno
      obtain ⟨hreq, rfl⟩ | ⟨hreq, hlim, rfl⟩ | ⟨hreq, hlim, rfl⟩ := next_of_idle hrst h hph <;>
        rw [hport, hreq] at hret
      · obtain ⟨hack, hword⟩ := ports_of_returned_none (evs := []) hret (by simp)
        exact ⟨[], by simp, hack, fun _ => hword⟩
      · rw [Bool.true_and, if_pos (s.sampleInputs.rateLimited_iff.2 (by rw [hport]; exact hlim))] at hret
        obtain ⟨hack, hword⟩ := ports_of_returned_some hret
        exact ⟨_, rfl, hack, fun _ => hword⟩
      · rw [Bool.true_and, if_neg (mt s.sampleInputs.rateLimited_iff.1 (by rw [hport]; exact hlim))] at hret
        obtain ⟨hack, hword⟩ := ports_of_returned_none (evs := [.maskOn]) hret (by simp)
        exact ⟨_, rfl, hack, fun _ => hword⟩
    | drive =>
      obtain ⟨hack, hword⟩ := hbusy [.selWrite (selLevel s.cyc)] (.inl hph) (by simp)
      rw [next_of_drive hrst h hph]
      exact ⟨_, rfl, hack, fun _ => hword⟩
    | settle =>
      obtain ⟨hack, hword⟩ := hbusy [] (.inr (.inl hph)) (by simp)
      rw [next_of_settle hrst h hph]
      exact ⟨[], by simp, hack, fun _ => by rw [State.settleTick_word, hword]⟩
    | sample =>
      obtain ⟨-, rfl⟩ | ⟨-, _, rfl⟩ := next_of_sample hrst h hph
      · obtain ⟨hack, hword⟩ := hbusy [.sample s.cyc s.nextInputs.lines, .maskOff] (.inr (.inr hph)) (by simp)
        exact ⟨_, by simp, hack, fun _ => hword⟩
      · obtain ⟨hack, hword⟩ := hbusy [.sample s.cyc s.nextInputs.lines] (.inr (.inr hph)) (by simp)
        exact ⟨_, rfl, hack, fun _ => hword⟩
    | decode =>
      obtain ⟨d, hd, rfl⟩ := next_of_decode hrst h hph
      obtain ⟨hack, hword⟩ := ports_of_returned_some
        (returned_of_decode (s := s.sampleInputs) hph hno hd)
      exact ⟨_, rfl, hack, fun _ => hword⟩

end Sys2Proof.Proofs
end

section
/-! What no operation writes (10_state.md R33, R34). -/

namespace Sys2Proof.Proofs

open Sys2Proof Sys2Proof.Machine

/-- Two states with the same parameters, ports, ports to come and tick count. -/
def SameConfig (s t : State) : Prop :=
  t.params = s.params ∧ t.inputs = s.inputs ∧ t.pending = s.pending ∧ t.ticks = s.ticks

/-- `POLL` in `IDLE` writes none of them. -/
theorem sameConfig_pollIdle (s : State) : SameConfig s s.pollIdle := by
  rw [State.pollIdle_eq]
  split <;> exact ⟨rfl, rfl, rfl, rfl⟩

/-- A step of phase `IDLE` writes none of them. -/
theorem sameConfig_idleStep (s : State) : SameConfig s s.idleStep := by
  unfold State.idleStep
  split
  · exact sameConfig_pollIdle s
  · exact ⟨rfl, rfl, rfl, rfl⟩

/-- A settle tick writes none of them. -/
theorem sameConfig_settleTick (s : State) : SameConfig s s.settleTick := by
  simp [SameConfig]

/-- A `SAMPLE` step writes none of them. -/
theorem sameConfig_of_sampleCycle {c : Cycle} {s t : State} (h : s.sampleCycle c = .next t) :
    SameConfig s t := by
  obtain ⟨-, hnext⟩ | ⟨-, _, hnext⟩ | ⟨-, -, href⟩ := State.sampleCycle_cases c s
  · cases h.symm.trans hnext
    exact ⟨rfl, rfl, rfl, rfl⟩
  · cases h.symm.trans hnext
    exact ⟨rfl, rfl, rfl, rfl⟩
  · cases h.symm.trans href

/-- What follows a read of the buffer writes none of them, if the continuation does not. -/
theorem sameConfig_of_afterRead {r : Except Cycle Decoded} {next : Decoded → State} {s t : State}
    (h : afterRead r next = .next t) (hnext : ∀ d, SameConfig s (next d)) : SameConfig s t := by
  obtain ⟨d, -, hd⟩ | ⟨c, -, hc⟩ := afterRead_cases r next
  · cases h.symm.trans hd
    exact hnext d
  · cases h.symm.trans hc

/-- A `DECODE` step writes none of them. -/
theorem sameConfig_of_decodeStep {s t : State} (h : s.decodeStep = .next t) : SameConfig s t :=
  sameConfig_of_afterRead h fun _ => ⟨rfl, rfl, rfl, rfl⟩

/-- The step that the phase alone selects writes none of them. -/
theorem sameConfig_of_phaseStep {s t : State} (h : s.phaseStep = .next t) : SameConfig s t := by
  unfold State.phaseStep at h
  cases hph : s.ph <;> rw [hph] at h
  case idle => cases h; exact ⟨rfl, rfl, rfl, rfl⟩
  case drive => cases h; exact ⟨rfl, rfl, rfl, rfl⟩
  case settle => cases h; exact sameConfig_settleTick s
  case sample => exact sameConfig_of_sampleCycle h
  case decode => exact sameConfig_of_decodeStep h

/-- A decoder half writes none of them. -/
theorem sameConfig_of_decoderHalf {i : Instr} {s t : State} (h : decoderHalf i s = .next t) :
    SameConfig s t := by
  have hhalf {r : Except Cycle Decoded} (h : s.decodeHalf r = .next t) : SameConfig s t :=
    sameConfig_of_afterRead h fun _ => ⟨rfl, rfl, rfl, rfl⟩
  cases i with
  | pres | ast | dpad | modep | xyzm | home => exact hhalf h
  | _ => cases h; exact ⟨rfl, rfl, rfl, rfl⟩

/-- A cycle operation writes none of them. -/
theorem sameConfig_of_exec_cycle {p : Instr × Cycle} (hp : p ∈ cycleOperations) {s t : State}
    (h : exec p.1 s = .next t) : SameConfig s t := by
  cases hph : s.ph with
  | idle => cases h.symm.trans (exec_cycle_of_idle hp hph); exact sameConfig_idleStep s
  | drive => cases h.symm.trans (exec_cycle_of_drive hp hph); exact ⟨rfl, rfl, rfl, rfl⟩
  | settle => cases h.symm.trans (exec_cycle_of_settle hp hph); exact sameConfig_settleTick s
  | sample => exact sameConfig_of_sampleCycle ((exec_cycle_of_sample hp hph).symm.trans h)
  | decode => exact sameConfig_of_decoderHalf ((exec_cycle_of_decode hp hph).symm.trans h)

/-- Settles O49: operation by operation. -/
theorem configurationIsFixed : Obligations.ConfigurationIsFixed := by
  intro i s t h
  cases i with
  | reset => cases h; exact ⟨rfl, rfl, rfl, rfl⟩
  | poll =>
    by_cases hph : s.ph = .idle
    · cases h.symm.trans (exec_poll_of_idle hph)
      exact sameConfig_pollIdle s
    · exact sameConfig_of_phaseStep ((exec_poll_of_ne_idle hph).symm.trans h)
  | nop => exact sameConfig_of_phaseStep h
  | idle => cases h; exact sameConfig_idleStep s
  | drive => cases h; exact ⟨rfl, rfl, rfl, rfl⟩
  | settle => cases h; exact sameConfig_settleTick s
  | sample => exact sameConfig_of_sampleCycle h
  | decode => exact sameConfig_of_decodeStep h
  | lead => exact sameConfig_of_exec_cycle (p := (.lead, 0)) (by decide) h
  | pres => exact sameConfig_of_exec_cycle (p := (.pres, 1)) (by decide) h
  | ast => exact sameConfig_of_exec_cycle (p := (.ast, 2)) (by decide) h
  | dpad => exact sameConfig_of_exec_cycle (p := (.dpad, 3)) (by decide) h
  | modep => exact sameConfig_of_exec_cycle (p := (.modep, 4)) (by decide) h
  | xyzm => exact sameConfig_of_exec_cycle (p := (.xyzm, 5)) (by decide) h
  | home => exact sameConfig_of_exec_cycle (p := (.home, 6)) (by decide) h

end Sys2Proof.Proofs
end

section
/-! What a step does not read (43_session.md R160, R166, 00_scope.md R10, R11). -/

namespace Sys2Proof.Proofs

open Sys2Proof Sys2Proof.Machine

/-- A `SAMPLE` step of a changed state is the changed step, where the change commutes with the capture and
with both ends of the step, and leaves `MODE6`. -/
theorem sampleCycle_map {f : State → State} {s : State} {c : Cycle}
    (hcap : (f s).capture c = f (s.capture c)) (hmode : (f (s.capture c)).mode6 = (s.capture c).mode6)
    (hfin : (f (s.capture c)).finishSampling = f (s.capture c).finishSampling)
    (hadv : ∀ h : c.val + 1 < 7, ({ f (s.capture c) with cyc := ⟨c.val + 1, h⟩, ph := .drive } : State) =
      f { s.capture c with cyc := ⟨c.val + 1, h⟩, ph := .drive }) :
    (f s).sampleCycle c = onNext f (s.sampleCycle c) := by
  rw [State.sampleCycle, State.sampleCycle, hcap, State.advance, State.advance]
  by_cases hlast : c.val = ncyc (s.capture c).mode6 - 1
  · rw [if_pos (by rwa [hmode]), if_pos hlast]
    exact congrArg Host.Outcome.next hfin
  · rw [if_neg (by rwa [hmode]), if_neg hlast]
    by_cases hc : c.val + 1 < 7
    · rw [dif_pos hc, dif_pos hc]
      exact congrArg Host.Outcome.next (hadv hc)
    · rw [dif_neg hc, dif_neg hc]
      rfl

/-- A `DECODE` step of a changed state is the changed step, where the change commutes with the completion
and leaves `RAW` and `MODE6`. -/
theorem decodeStep_map {f : State → State} {s : State} (hraw : (f s).raw = s.raw)
    (hmode : (f s).mode6 = s.mode6) (hcomplete : ∀ d, (f s).complete d = f (s.complete d)) :
    (f s).decodeStep = onNext f s.decodeStep := by
  rw [State.decodeStep, State.decodeStep, hraw, hmode]
  obtain ⟨d, hd, -⟩ | ⟨c, hc, -⟩ := s.decodeStep_cases
  · rw [hd, afterRead_ok, afterRead_ok, hcomplete]
    rfl
  · rw [hc]
    rfl

/-- A settle tick of a changed state is the changed tick, where the change keeps the counter and commutes
with writes of the counter and the phase. -/
theorem settleTick_map {f : State → State} {s : State} (hsc : (f s).sc = s.sc)
    (hdec : ∀ c, ({ f s with sc := c } : State) = f { s with sc := c })
    (hend : ∀ c, ({ f s with sc := c, ph := .sample } : State) = f { s with sc := c, ph := .sample }) :
    (f s).settleTick = f s.settleTick := by
  rw [State.settleTick, State.settleTick, hsc]
  split
  · exact hdec _
  · exact hend _

/-- `POLL` in `IDLE` of a changed state is the changed `POLL`, where the change keeps what the rate-limit
test reads and commutes with both of its ends. -/
theorem pollIdle_map {f : State → State} {s : State} (hnow : (f s).inputs.nowMs = s.inputs.nowMs)
    (hlast : (f s).lastT = s.lastT) (hmin : (f s).params.tMin = s.params.tMin)
    (hcached : (f s).cachedReturn = f s.cachedReturn) (haccept : (f s).accept = f s.accept) :
    (f s).pollIdle = f s.pollIdle := by
  rw [State.pollIdle_eq, State.pollIdle_eq, hnow, hlast, hmin]
  split
  · exact hcached
  · exact haccept

/-- A step of a changed state is the changed step, if in each phase the operation of that phase commutes with
the change. -/
theorem step_map {f : State → State} {s s' : State} (hu : s'.sampleInputs = f s.sampleInputs)
    (hrst : (s'.inputAt 0).rst = (s.inputAt 0).rst) (hph : s'.ph = s.ph) (hcyc : s'.cyc = s.cyc)
    (hreset : (f s.sampleInputs).resetEngine = f s.sampleInputs.resetEngine)
    (hreq : s.ph = .idle → (s'.inputAt 0).pollReq = (s.inputAt 0).pollReq)
    (hpoll : s.ph = .idle → (s.inputAt 0).pollReq = true →
      (f s.sampleInputs).pollIdle = f s.sampleInputs.pollIdle)
    (hdrive : (f s.sampleInputs).driveCycle s.cyc = f (s.sampleInputs.driveCycle s.cyc))
    (hsettle : (f s.sampleInputs).settleTick = f s.sampleInputs.settleTick)
    (hsample : s.ph = .sample →
      (f s.sampleInputs).sampleCycle s.cyc = onNext f (s.sampleInputs.sampleCycle s.cyc))
    (hdecode : s.ph = .decode →
      (f s.sampleInputs).decodeStep = onNext f s.sampleInputs.decodeStep) :
    step s' = onNext f (step s) := by
  rw [step_eq, step_eq, hu, hrst, hph, hcyc]
  cases (s.inputAt 0).rst with
  | true => exact congrArg Host.Outcome.next hreset
  | false =>
    cases h : s.ph with
    | idle =>
      refine congrArg Host.Outcome.next ?_
      rw [hreq h]
      cases hp : (s.inputAt 0).pollReq with
      | true => exact hpoll h hp
      | false => rfl
    | drive => exact congrArg Host.Outcome.next hdrive
    | settle => exact congrArg Host.Outcome.next hsettle
    | sample => exact hsample h
    | decode => exact hdecode h

/-- A step with other port values does the same, the sampled ports apart, if each port that differs is one
that the step does not read (43_session.md R160). -/
theorem step_setInputs (s : State) (i j : Inputs) (rest : List Inputs) (hrst : j.rst = i.rst)
    (hreq : s.ph = .idle → j.pollReq = i.pollReq) (hlines : s.ph = .sample → j.lines = i.lines)
    (hnow : s.ph = .idle ∧ i.pollReq = true ∨ s.ph = .decode → j.nowMs = i.nowMs) :
    step { s with pending := j :: rest } =
      onNext (State.setInputs j) (step { s with pending := i :: rest }) := by
  refine step_map rfl hrst rfl rfl rfl hreq ?poll rfl ?settle ?sample ?decode
  case poll => exact fun hph hp => pollIdle_map (hnow (.inl ⟨hph, hp⟩)) rfl rfl rfl rfl
  case settle => exact settleTick_map rfl (fun _ => rfl) fun _ => rfl
  case sample =>
    refine fun hph => sampleCycle_map ?_ rfl rfl fun _ => rfl
    simp [State.capture, State.setInputs, State.emit, State.nextInputs, hlines hph]
  case decode =>
    refine fun hph => decodeStep_map rfl rfl fun d => ?_
    simp [State.complete, State.setInputs, State.emit, State.nextInputs, hnow (.inr hph)]

/-- Settles O14: while busy, `poll_req` is a port that the step does not read. -/
theorem pollRequestWhileBusyIsIgnored : Obligations.PollRequestWhileBusyIsIgnored :=
  fun s i rest _ hph _ =>
    step_setInputs s i _ rest rfl (fun h => absurd h hph) (fun _ => rfl) (fun _ => rfl)

/-- Settles O52: `lines` outside `SAMPLE`, and `now_ms` outside `DECODE` and a request in `IDLE`, are ports
that the step does not read. -/
theorem portsAreReadOnlyWhereTheRuleSays : Obligations.PortsAreReadOnlyWhereTheRuleSays :=
  fun s i rest =>
    ⟨fun _ hph => step_setInputs s i _ rest rfl (fun _ => rfl) (fun h => absurd h hph) (fun _ => rfl),
      fun _ hidle hdec => step_setInputs s i _ rest rfl (fun _ => rfl) (fun _ => rfl)
        fun h => absurd h (not_or.2 ⟨hidle, hdec⟩)⟩

/-- `W_SC` depends on `N_SETTLE` alone (00_scope.md R11). -/
theorem scWidth_congr {p q : Params} (h : p.nSettle = q.nSettle) : p.scWidth = q.scWidth := by
  rw [Params.scWidth, Params.scWidth, h]

/-- The loaded counter depends on `N_SETTLE` alone (40_sequencer.md R106). -/
theorem load_congr {p q : Params} (h : p.nSettle = q.nSettle) :
    SettleCounter.load p = SettleCounter.load q :=
  SettleCounter.ext_count (scWidth_congr h) (by rw [SettleCounter.count_load, SettleCounter.count_load, h])

/-- Settles O58: a step reads `N_SETTLE` in `RESET` and `DRIVE` and `T_MIN` in `IDLE`, and no other
parameter. -/
theorem openParametersHaveNoEffect : Obligations.OpenParametersHaveNoEffect := by
  intro s p hn ht
  have hat : (s.setParams p).inputAt 0 = s.inputAt 0 := State.inputAt_congr rfl rfl 0
  refine step_map rfl (by rw [hat]) rfl rfl ?reset (fun _ => by rw [hat]) ?poll ?drive ?settle ?sample ?decode
  case reset => simp [State.resetEngine, State.setParams, scWidth_congr hn]
  case poll => exact fun _ _ => pollIdle_map rfl rfl ht rfl rfl
  case drive => simp [State.driveCycle, State.setParams, State.emit, load_congr hn]
  case settle => exact settleTick_map rfl (fun _ => rfl) fun _ => rfl
  case sample => exact fun _ => sampleCycle_map rfl rfl rfl fun _ => rfl
  case decode => exact fun _ => decodeStep_map rfl rfl fun _ => rfl

end Sys2Proof.Proofs
end

section
/-! The settle counter and the adapter calls (10_state.md R26, 60_exceptions.md R193). -/

namespace Sys2Proof.Proofs

open Sys2Proof Sys2Proof.Machine

/-- Settles O57: the width is one more than the binary logarithm of `N_SETTLE`, and a counter of a width
holds every number below its power of two. -/
theorem settleCounterHasTheLeastWidth : Obligations.SettleCounterHasTheLeastWidth := by
  intro p hp
  refine ⟨nSettle_lt_two_pow p, fun w hw => ?least, SettleCounter.width_load p,
    SettleCounter.count_load p, fun n => ⟨?bounded, fun hn => ?reached⟩⟩
  case least => exact (Nat.log2_lt (Nat.one_le_iff_ne_zero.1 hp)).2 hw
  case bounded =>
    rintro ⟨c, hwidth, rfl⟩
    rw [← hwidth]
    exact c.value.isLt
  case reached => exact ⟨⟨p.scWidth, BitVec.ofNatLT n hn⟩, rfl, rfl⟩

section
variable {s t : State} (h : step s = .next t) (hrst : (s.inputAt 0).rst = false)
include h hrst

/-- In `IDLE` the accept step alone calls the adapter (43_session.md R163). -/
theorem stepCalls_of_idle (hph : s.ph = .idle) :
    stepCalls s t = if t.ph = .drive then [.suppressInterrupts] else [] := by
  obtain ⟨-, rfl⟩ | ⟨-, -, rfl⟩ | ⟨-, -, rfl⟩ := next_of_idle hrst h hph
  · rw [stepCalls_of_trace (s := s) (t := s.sampleInputs) (evs := []) (List.append_nil _).symm,
      State.sampleInputs_ph, hph]
    rfl
  · rw [stepCalls_of_trace rfl, State.cachedReturn_ph, State.sampleInputs_ph, hph]
    rfl
  · rw [stepCalls_of_trace rfl]
    rfl

/-- In `DRIVE` the call is the one that brings the select line to its new level (40_sequencer.md R106). -/
theorem stepCalls_of_drive (hph : s.ph = .drive) :
    stepCalls s t = (selectCall s.params.selImpl s.sel t.sel).toList := by
  rw [next_of_drive hrst h hph, stepCalls_of_trace rfl]
  exact List.append_nil _

/-- A settle tick calls nothing (40_sequencer.md R107). -/
theorem stepCalls_of_settle (hph : s.ph = .settle) : stepCalls s t = [] := by
  rw [next_of_settle hrst h hph]
  exact stepCalls_of_trace (evs := []) (by simp)

/-- A `SAMPLE` step reads the lines, and in the last cycle restores the interrupts (40_sequencer.md R109). -/
theorem stepCalls_of_sample (hph : s.ph = .sample) :
    stepCalls s t = .readLevels :: if t.ph = .decode then [.restoreInterrupts] else [] := by
  obtain ⟨-, rfl⟩ | ⟨-, _, rfl⟩ := next_of_sample hrst h hph
  · exact stepCalls_of_trace (evs := [.sample s.cyc s.nextInputs.lines, .maskOff]) (by simp)
  · exact stepCalls_of_trace (evs := [.sample s.cyc s.nextInputs.lines]) rfl

/-- A `DECODE` step calls nothing (43_session.md R164). -/
theorem stepCalls_of_decode (hph : s.ph = .decode) : stepCalls s t = [] := by
  obtain ⟨d, -, rfl⟩ := next_of_decode hrst h hph
  exact stepCalls_of_trace (evs := [.ret d.w]) rfl

/-- The calls of a step bring the select pin to `SEL` (60_exceptions.md R193): only those of `DRIVE` move
it, and only `DRIVE` writes `SEL`. -/
theorem selectLevelAfter_stepCalls : selectLevelAfter s.sel (stepCalls s t) = t.sel := by
  by_cases hdrive : s.ph = .drive
  · rw [stepCalls_of_drive h hrst hdrive, selectLevelAfter_selectCall]
  · have hsel : s.sel = t.sel :=
      (not_not.1 (mt (selectAndMaskHaveTheirWriters s t h hrst).1 hdrive)).symm
    rw [hsel]
    cases hph : s.ph with
    | idle => rw [stepCalls_of_idle h hrst hph]; split <;> rfl
    | drive => exact absurd hph hdrive
    | settle => rw [stepCalls_of_settle h hrst hph]; rfl
    | sample => rw [stepCalls_of_sample h hrst hph]; split <;> rfl
    | decode => rw [stepCalls_of_decode h hrst hph]; rfl

/-- The toggle realisation calls the adapter in `DRIVE` exactly where the level changes (log 24). -/
theorem stepCalls_of_toggle (hph : s.ph = .drive) (himpl : s.params.selImpl = .hardwareToggle) :
    stepCalls s t = if t.sel = s.sel then [] else [.toggleLevel .select] := by
  rw [stepCalls_of_drive h hrst hph, himpl, selectCall]
  split <;> rfl

end

/-- Settles O59: the calls phase by phase, and the toggles of `DRIVE` under the invariant. -/
theorem adapterCallsRealiseTheEvents : Obligations.AdapterCallsRealiseTheEvents := by
  intro s t h hrst
  refine ⟨selectLevelAfter_stepCalls h hrst, stepCalls_of_idle h hrst, fun hph himpl => ?explicit,
    stepCalls_of_toggle h hrst, fun hph himpl hinv => ?toggle, stepCalls_of_settle h hrst,
    stepCalls_of_sample h hrst, stepCalls_of_decode h hrst⟩
  case explicit =>
    rw [stepCalls_of_drive h hrst hph, himpl]
    rfl
  case toggle =>
    rw [stepCalls_of_toggle h hrst hph himpl]
    exact if_congr (driveTogglesExceptInCycleZero s t hinv hph hrst h) rfl rfl

end Sys2Proof.Proofs
end

section
/-! The ticks of a `POLL` line (30_encoding.md R85). -/

namespace Sys2Proof.Proofs

open Sys2Proof Sys2Proof.Machine

/-- The port values of a `POLL` line, one after the other. -/
theorem inputs_poll (n : Nat) (now t u : Time) (samples : List Sample) :
    (Line.poll t u samples).inputs n now =
      { rst := false, pollReq := true, nowMs := t, lines := Config.idleLines } ::
        (samples.flatMap (cycleTicks n u) ++ [quietTick u Config.idleLines]) := rfl

/-- A cycle takes `N_SETTLE + 2` ticks (40_sequencer.md R113). -/
theorem length_cycleTicks (n : Nat) (u : Time) (v : Sample) : (cycleTicks n u v).length = n + 2 := by
  simp [cycleTicks]

/-- The last tick of a cycle is the `SAMPLE` step that sees its sample. -/
theorem getElem?_cycleTicks_sample (n : Nat) (u : Time) (v : Sample) :
    (cycleTicks n u v)[n + 1]? = some (quietTick u v) := by
  simp [cycleTicks]

/-- No tick of a cycle has `rst = 1`. -/
theorem rst_of_mem_cycleTicks {n : Nat} {u : Time} {v : Sample} {i : Inputs}
    (h : i ∈ cycleTicks n u v) : i.rst = false := by
  simp only [cycleTicks, List.mem_append, List.mem_replicate, List.mem_singleton] at h
  obtain ⟨-, rfl⟩ | rfl := h <;> rfl

/-- In a concatenation of lists of one length `m`, entry `j` of part `c` stands at `c * m + j`. -/
theorem getElem?_flatMap_of_length {α β : Type} {f : α → List β} {m : Nat} (hf : ∀ a, (f a).length = m)
    {j : Nat} (hj : j < m) :
    ∀ (l : List α) (c : Nat) (a : α), l[c]? = some a → (l.flatMap f)[c * m + j]? = (f a)[j]?
  | x :: l, 0, a, h => by
    cases h
    rw [List.flatMap_cons, Nat.zero_mul, Nat.zero_add, List.getElem?_append_left (by rwa [hf])]
  | x :: l, c + 1, a, h => by
    have hidx : (c + 1) * m + j - m = c * m + j := by rw [Nat.succ_mul]; omega
    rw [List.flatMap_cons, List.getElem?_append_right (by rw [hf, Nat.succ_mul]; omega), hf, hidx]
    exact getElem?_flatMap_of_length hf hj l c a h

/-- Settles O56: the request, then the cycles of `N_SETTLE + 2` ticks each, then the `DECODE` tick. -/
theorem pollLineStandsForItsTicks : Obligations.PollLineStandsForItsTicks := by
  intro p mode6 now t u samples hwf
  have hlen : samples.length = ncyc mode6 := by simpa [Line.wf] using hwf
  rw [inputs_poll]
  refine ⟨?length, ?rst, rfl, fun c v hv => ?sample⟩
  case length =>
    simp only [List.length_cons, List.length_append, List.length_flatMap, length_cycleTicks,
      List.map_const', List.sum_replicate, hlen, pollTicks, List.length_nil, smul_eq_mul]
    omega
  case rst =>
    intro i hi
    simp only [List.mem_cons, List.mem_append, List.mem_flatMap, List.not_mem_nil, or_false] at hi
    obtain rfl | ⟨v, -, hv⟩ | rfl := hi
    · rfl
    · exact rst_of_mem_cycleTicks hv
    · rfl
  case sample =>
    have htick : (samples.flatMap (cycleTicks p.nSettle u))[c.val * (p.nSettle + 2) + (p.nSettle + 1)]? =
        some (quietTick u v) := by
      rw [getElem?_flatMap_of_length (length_cycleTicks p.nSettle u) (by omega) samples c.val v hv,
        getElem?_cycleTicks_sample]
    obtain ⟨hlt, -⟩ := List.getElem?_eq_some_iff.1 htick
    rw [sampleTick, show p.nSettle + 2 = p.nSettle + 1 + 1 from rfl, ← Nat.add_assoc,
      List.getElem?_cons_succ, List.getElem?_append_left hlt, htick]
    rfl

end Sys2Proof.Proofs
end

section
/-! Runs of ticks: the wait of a cycle and any number of `IDLE` ticks (40_sequencer.md R107, 43_session.md
R169). -/

namespace Sys2Proof.Proofs

open Sys2Proof Sys2Proof.Machine

/-- A run of one tick is a step. -/
theorem run_one (s : State) : run 1 s = step s := by
  rw [run_succ]
  cases step s <;> rfl

/-- A run with one more tick at its end. -/
theorem run_succ_last {n : Nat} {s t : State} (h : run n s = .next t) : run (n + 1) s = step t :=
  (run_add h).trans (run_one t)

/-- The ports to come after `k` ticks are those `k` ticks further on. -/
theorem inputAt_of_ticks {s t : State} {k : Nat} (hp : t.pending = s.pending.drop k)
    (ht : t.ticks = s.ticks + k) (j : Nat) : t.inputAt j = s.inputAt (k + j) := by
  simp only [State.inputAt, hp, ht, List.getElem?_drop, Nat.add_assoc]

/-- A cycle after its `DRIVE` step and `k` of its settle ticks: beside the select line, the counter, the phase
and the trace, only the model's port fields have moved on (40_sequencer.md R106, R107). -/
theorem run_drive_settle {s : State} (hph : s.ph = .drive) {k : Nat} (hk : k < s.params.nSettle)
    (hrst : ∀ j, j ≤ k → (s.inputAt j).rst = false) :
    ∃ t, run (k + 1) s = .next t ∧ t.sc.count = s.params.nSettle - k ∧
      t.sc.width = s.params.scWidth ∧
      t = { s with
        sel := selLevel s.cyc, sc := t.sc, ph := .settle, inputs := t.inputs,
        pending := s.pending.drop (k + 1), ticks := s.ticks + (k + 1),
        trace := s.trace ++ [.selWrite (selLevel s.cyc)] } := by
  have hstep := step_of_drive (hrst 0 (Nat.zero_le k)) hph
  have hinp (j : Nat) : (s.sampleInputs.driveCycle s.cyc).inputAt j = s.inputAt (j + 1) :=
    (State.inputAt_congr rfl rfl j).trans (s.inputAt_sampleInputs j)
  obtain ⟨t, hrun, hcount, hwidth, ht⟩ :=
    run_settle k (s.params.nSettle - k - 1) (s.sampleInputs.driveCycle s.cyc) rfl
      (by simp only [State.driveCycle_sc, SettleCounter.count_load, State.sampleInputs_params]; omega)
      (fun j hj => by rw [hinp]; exact hrst _ hj)
  refine ⟨t, (run_succ_of_step hstep).trans hrun, by omega, hwidth, ht.trans ?_⟩
  simp [State.driveCycle, State.emit, State.sampleInputs, Nat.add_comm, Nat.add_left_comm]

/-- A cycle after its `DRIVE` step and all its settle ticks: the `SAMPLE` step comes next
(40_sequencer.md R107). -/
theorem run_to_sample {s : State} (hph : s.ph = .drive) (hn : 1 ≤ s.params.nSettle)
    (hrst : ∀ j, j ≤ s.params.nSettle → (s.inputAt j).rst = false) :
    ∃ t, run (s.params.nSettle + 1) s = .next t ∧
      t = { s with
        sel := selLevel s.cyc, sc := SettleCounter.zero s.params.scWidth, ph := .sample,
        inputs := t.inputs, pending := s.pending.drop (s.params.nSettle + 1),
        ticks := s.ticks + (s.params.nSettle + 1),
        trace := s.trace ++ [.selWrite (selLevel s.cyc)] } := by
  obtain ⟨k, hk⟩ : ∃ k, s.params.nSettle = k + 1 := ⟨s.params.nSettle - 1, by omega⟩
  obtain ⟨u, hrun, hcount, hwidth, hu⟩ :=
    run_drive_settle hph (k := k) (by omega) fun j hj => hrst j (by omega)
  have hset : u.ph = .settle := by rw [hu]
  have hquiet : (u.inputAt 0).rst = false := by
    rw [inputAt_of_ticks (s := s) (k := k + 1) (by rw [hu]) (by rw [hu])]
    exact hrst _ (by omega)
  have hend : u.sampleInputs.settleTick =
      { u.sampleInputs with sc := SettleCounter.zero u.sc.width, ph := .sample } :=
    if_neg (by simp only [State.sampleInputs_sc]; omega)
  rw [hk]
  refine ⟨_, (run_succ_last hrun).trans (step_of_settle hquiet hset), ?_⟩
  rw [hend, hwidth]
  generalize u.inputs = i, u.sc = c at hu
  subst hu
  simp [State.sampleInputs, Nat.add_assoc]

/-- Settles O19: the wait seen after each of its ticks, and after the last. -/
theorem settleLastsExactlyNSettleTicks : Obligations.SettleLastsExactlyNSettleTicks := by
  intro s hph hn hrst
  constructor
  · intro k hk hkn
    obtain ⟨j, rfl⟩ : ∃ j, k = j + 1 := ⟨k - 1, by omega⟩
    obtain ⟨t, hrun, hcount, hwidth, ht⟩ :=
      run_drive_settle hph (k := j) (by omega) fun i hi => hrst i (by omega)
    refine ⟨t, hrun, by rw [ht], by omega, hwidth, ?_⟩
    rw [ht, selLevel_eq]
  · obtain ⟨t, hrun, ht⟩ := run_to_sample hph hn hrst
    refine ⟨t, hrun, ?_⟩
    rw [ht, selLevel_eq]
    exact ⟨rfl, rfl, rfl, rfl, rfl, rfl, rfl, rfl, rfl, rfl⟩

/-- Settles O55: by induction on the number of ticks, each of which waits or answers from the cache. -/
theorem cachedPollsAreIdempotent : Obligations.CachedPollsAreIdempotent := by
  intro n s hph hquiet
  induction n with
  | zero => exact ⟨s, rfl, by simp⟩
  | succ n ih =>
    obtain ⟨t, hrun, ht⟩ := ih fun j hj => hquiet j (Nat.lt_succ_of_lt hj)
    have hinp : t.inputAt 0 = s.inputAt n := inputAt_of_ticks (by rw [ht]) (by rw [ht]) 0
    obtain ⟨hrst, hlim⟩ := hquiet n (Nat.lt_succ_self n)
    have hidle : t.ph = .idle := by rw [ht]; exact hph
    rw [← hinp] at hrst hlim
    rw [run_succ_last hrun, List.range_succ, List.countP_append, List.countP_singleton, ← hinp]
    cases hreq : (t.inputAt 0).pollReq with
    | false =>
      refine ⟨_, step_of_idle_quiet hrst hidle hreq, ?_⟩
      generalize t.inputs = i at ht
      subst ht
      simp [State.sampleInputs, Nat.add_assoc]
    | true =>
      have hlow : ((t.inputAt 0).nowMs - t.lastT).toNat < t.params.tMin := by
        rw [show t.lastT = s.lastT by rw [ht], show t.params = s.params by rw [ht]]
        exact hlim hreq
      refine ⟨_, (step_of_idle_request hrst hidle hreq).trans (congrArg _ (if_pos hlow)), ?_⟩
      generalize t.inputs = i at ht
      subst ht
      simp [State.cachedReturn, State.emit, State.sampleInputs, Nat.add_assoc, List.replicate_succ']

end Sys2Proof.Proofs
end

section
/-! A whole accepted poll and its atomic summary (43_session.md R168, 40_sequencer.md R113, R114). -/

namespace Sys2Proof.Proofs

open Sys2Proof Sys2Proof.Machine

/-- The first `n` cycles, in order (40_sequencer.md R103). -/
def cyclesBefore (n : Nat) : List Cycle := (List.finRange 7).take n

/-- The cycles before the next one are those before this one, and this one. -/
theorem cyclesBefore_succ : ∀ c : Cycle, cyclesBefore (c.val + 1) = cyclesBefore c.val ++ [c] := by
  decide

/-- A poll runs the cycles below its cycle count (42_mode_detector.md R146). -/
theorem pollCycles_eq (m : Bool) : pollCycles m = cyclesBefore (ncyc m) := by
  cases m <;> decide

/-- Filling the buffer with one more cycle is one more write (43_session.md R168). -/
theorem fill_append (samples : Vector Sample 7) (c : Cycle) :
    ∀ (cs : List Cycle) (raw : RawBuffer),
      RawBuffer.fill samples (cs ++ [c]) raw = (RawBuffer.fill samples cs raw).write c samples[c]
  | [], _ => rfl
  | _ :: cs, _ => fill_append samples c cs _

/-- One more cycle emits one more select write and one more sample (40_sequencer.md R114). -/
theorem cycleEvents_append (samples : Vector Sample 7) (c : Cycle) :
    ∀ cs : List Cycle, cycleEvents samples (cs ++ [c]) =
      cycleEvents samples cs ++ [.selWrite (selLevel c), .sample c samples[c]]
  | [] => rfl
  | d :: cs => by simp [cycleEvents, cycleEvents_append samples c cs]

/-- The line levels at the `SAMPLE` ticks of a poll that starts with the next tick. -/
def pollSamples (s : State) : Vector Sample 7 :=
  Vector.ofFn fun c => (s.inputAt (sampleTick s.params c)).lines

/-- The sample of a cycle is what the lines show at its tick. -/
theorem getElem_pollSamples (s : State) (c : Cycle) :
    (pollSamples s)[c] = (s.inputAt (sampleTick s.params c)).lines := by
  simp [pollSamples]

/-- How many ticks a poll takes before the `DRIVE` step of cycle `n`, from the one that sees `poll_req` on
(40_sequencer.md R113). -/
def driveTick (p : Params) (n : Nat) : Nat := 1 + n * (p.nSettle + 2)

/-- A poll that `s` accepted, before the `DRIVE` step of cycle `c`: the first `c` cycles have been sampled and
have left their events. The select line and the sampled ports are those of the tick before. -/
def polling (s : State) (c : Cycle) (sel : Level) (i : Inputs) : State :=
  { s with
    sel := sel, im := true, ph := .drive, cyc := c, sc := SettleCounter.zero s.params.scWidth,
    raw := RawBuffer.fill (pollSamples s) (cyclesBefore c.val) s.raw, inputs := i,
    pending := s.pending.drop (driveTick s.params c.val),
    ticks := s.ticks + driveTick s.params c.val,
    trace := s.trace ++ .maskOn :: cycleEvents (pollSamples s) (cyclesBefore c.val) }

/-- The poll in the `SAMPLE` tick of cycle `c`, its ports sampled. -/
def samplingTick (s : State) (c : Cycle) : State :=
  { polling s c (selLevel c) (s.inputAt (sampleTick s.params c)) with
    ph := .sample, pending := s.pending.drop (driveTick s.params (c.val + 1)),
    ticks := s.ticks + driveTick s.params (c.val + 1),
    trace := s.trace ++ .maskOn ::
      (cycleEvents (pollSamples s) (cyclesBefore c.val) ++ [.selWrite (selLevel c)]) }

/-- The poll after the `SAMPLE` step of its last cycle `c`: `DECODE` comes next, the whole buffer and all
events but the last are written (40_sequencer.md R109). -/
def beforeDecode (s : State) (c : Cycle) : State :=
  { samplingTick s c with
    im := false, ph := .decode,
    raw := RawBuffer.fill (pollSamples s) (pollCycles s.mode6) s.raw,
    trace := s.trace ++
      .maskOn :: (cycleEvents (pollSamples s) (pollCycles s.mode6) ++ [.maskOff]) }

/-- The `SAMPLE` tick of a cycle is the last before the `DRIVE` tick of the next one. -/
theorem sampleTick_eq (p : Params) (c : Cycle) : sampleTick p c = driveTick p c.val + (p.nSettle + 1) := by
  rw [sampleTick, driveTick]
  omega

/-- Each cycle takes `N_SETTLE + 2` ticks (40_sequencer.md R113). -/
theorem driveTick_succ (p : Params) (n : Nat) : driveTick p (n + 1) = driveTick p n + (p.nSettle + 2) := by
  rw [driveTick, driveTick, Nat.succ_mul]
  omega

/-- The cycles of a poll end before its last tick, that of `DECODE` (40_sequencer.md R113). -/
theorem driveTick_lt_pollTicks {p : Params} {m : Bool} {n : Nat} (h : n ≤ ncyc m) :
    driveTick p n < pollTicks p m := by
  have hmul : n * (p.nSettle + 2) ≤ ncyc m * (p.nSettle + 2) := Nat.mul_le_mul_right _ h
  rw [driveTick, pollTicks]
  omega

/-- One cycle of a poll: from its `DRIVE` tick to its `SAMPLE` tick (40_sequencer.md R106 to R108). -/
theorem run_cycle {s : State} {c : Cycle} (hn : 1 ≤ s.params.nSettle)
    (hrst : ∀ j, j < driveTick s.params (c.val + 1) → (s.inputAt j).rst = false) (sel : Level)
    (i : Inputs) :
    run (s.params.nSettle + 2) (polling s c sel i) = (samplingTick s c).sampleCycle c := by
  have hinp (j : Nat) : (polling s c sel i).inputAt j = s.inputAt (driveTick s.params c.val + j) :=
    inputAt_of_ticks rfl rfl j
  rw [driveTick_succ] at hrst
  obtain ⟨t, hrun, ht⟩ := run_to_sample (s := polling s c sel i) rfl hn fun j hj => by
    rw [hinp]
    exact hrst _ (Nat.add_lt_add_left (Nat.lt_succ_of_le (Nat.le_succ_of_le hj)) _)
  have hnext : t.inputAt 0 = s.inputAt (sampleTick s.params c) := by
    rw [inputAt_of_ticks (s := polling s c sel i) (k := s.params.nSettle + 1) (by rw [ht]; rfl)
      (by rw [ht]; rfl), hinp, sampleTick_eq]
  have hph : t.ph = .sample := by rw [ht]
  have hcyc : t.cyc = c := by rw [ht]; rfl
  have hquiet : (t.inputAt 0).rst = false := by
    rw [hnext, sampleTick_eq]
    exact hrst _ (by omega)
  have hticked : t.sampleInputs = samplingTick s c := by
    rw [← t.nextInputs_eq] at hnext
    rw [State.sampleInputs, hnext, ht]
    simp [samplingTick, polling, driveTick_succ, Nat.add_assoc]
  rw [show s.params.nSettle + 2 = (polling s c sel i).params.nSettle + 1 + 1 from rfl,
    run_succ_last hrun, step_of_sample hquiet hph, hcyc, hticked]

/-- The capture of a cycle completes its share of the buffer and of the trace (40_sequencer.md R108). -/
theorem capture_samplingTick (s : State) (c : Cycle) :
    (samplingTick s c).capture c =
      { samplingTick s c with
        raw := RawBuffer.fill (pollSamples s) (cyclesBefore (c.val + 1)) s.raw,
        trace := s.trace ++ .maskOn :: cycleEvents (pollSamples s) (cyclesBefore (c.val + 1)) } := by
  rw [cyclesBefore_succ, fill_append, cycleEvents_append, getElem_pollSamples]
  simp [State.capture, State.emit, samplingTick, polling]

section
variable {s : State} (hinv : s.Inv) (hph : s.ph = .idle) (hreq : (s.inputAt 0).pollReq = true)
  (hrst : ∀ j, j < pollTicks s.params s.mode6 → (s.inputAt j).rst = false)
  (hlim : s.params.tMin ≤ ((s.inputAt 0).nowMs - s.lastT).toNat)
include hinv hph hreq hrst hlim

/-- The accept step starts the poll at cycle 0 (43_session.md R163). -/
theorem run_accept : run (driveTick s.params 0) s = .next (polling s 0 s.sel (s.inputAt 0)) := by
  have hzero : s.sc = SettleCounter.zero s.params.scWidth := by
    obtain ⟨hwidth, -, hcount⟩ := hinv.settle
    rw [← hwidth]
    exact SettleCounter.eq_zero (hcount (by simp [hph]))
  have hquiet := hrst 0 (Nat.lt_of_lt_of_le (Nat.zero_lt_two) (Nat.le_add_right _ _))
  rw [show driveTick s.params 0 = 1 by simp [driveTick], run_one,
    step_of_idle_request hquiet hph hreq, if_neg (Nat.not_lt.2 hlim)]
  simp [State.accept, State.emit, State.sampleInputs, polling, State.nextInputs_eq, hzero, driveTick,
    cyclesBefore, RawBuffer.fill, cycleEvents]

/-- An accepted poll reaches the `DRIVE` step of each of its cycles (40_sequencer.md R103, R109). -/
theorem run_to_drive : ∀ (n : Nat) (hn : n < 7), n < ncyc s.mode6 →
    ∃ sel i, run (driveTick s.params n) s = .next (polling s ⟨n, hn⟩ sel i)
  | 0, _, _ => ⟨s.sel, s.inputAt 0, run_accept hinv hph hreq hrst hlim⟩
  | n + 1, hn, hlt => by
    have hn' : n < 7 := Nat.lt_of_succ_lt hn
    obtain ⟨sel, i, hrun⟩ := run_to_drive n hn' (Nat.lt_of_succ_lt hlt)
    have hcycle := run_cycle (c := ⟨n, hn'⟩) hinv.params.1
      (fun j hj => hrst j (hj.trans (driveTick_lt_pollTicks (Nat.le_of_lt hlt)))) sel i
    refine ⟨selLevel ⟨n, hn'⟩, s.inputAt (sampleTick s.params ⟨n, hn'⟩), ?_⟩
    rw [driveTick_succ, run_add hrun, hcycle, sampleCycle_of_not_last (Nat.ne_of_lt hlt) hn,
      capture_samplingTick]
    rfl

/-- An accepted poll reaches its `DECODE` step (40_sequencer.md R109, R113). -/
theorem run_to_decode (c : Cycle) (hc : c.val + 1 = ncyc s.mode6) :
    run (driveTick s.params (c.val + 1)) s = .next (beforeDecode s c) := by
  obtain ⟨sel, i, hrun⟩ := run_to_drive hinv hph hreq hrst hlim c.val c.isLt (by omega)
  have hcycle := run_cycle (c := c) hinv.params.1
    (fun j hj => hrst j (hj.trans (driveTick_lt_pollTicks (Nat.le_of_eq hc)))) sel i
  rw [driveTick_succ, run_add hrun, hcycle, sampleCycle_of_last (s := samplingTick s c) hc,
    capture_samplingTick, beforeDecode, pollCycles_eq, ← hc]
  simp [State.finishSampling, State.emit]

end

/-- The summary of an accepted poll, with the decoder's answer on the filled buffer (43_session.md R168). -/
theorem exists_pollSummary_of_accepted {s : State} {t0 : Time} (t1 : Time) (samples : Vector Sample 7)
    (hlim : s.params.tMin ≤ (t0 - s.lastT).toNat) :
    ∃ d, decodeSamples (RawBuffer.fill samples (pollCycles s.mode6) s.raw) s.mode6 = .ok d ∧
      s.pollSummary t0 t1 samples = .next { s with
        raw := RawBuffer.fill samples (pollCycles s.mode6) s.raw, word := d.w, mode6 := d.mNew,
        lastT := t1, sel := Config.selIdle, im := false, ph := .idle,
        cyc := if s.mode6 then 6 else 4, sc := SettleCounter.zero s.params.scWidth,
        trace := s.trace ++ pollTrace s.mode6 samples d.w } := by
  obtain ⟨u, hu⟩ := s.pollSummary_completes t0 t1 samples
  rw [State.pollSummary, if_neg (Nat.not_lt.2 hlim)] at hu ⊢
  obtain ⟨d, hd, hnext⟩ | ⟨c, -, hfault⟩ := afterRead_cases _ _
  · exact ⟨d, hd, hnext⟩
  · cases hu.symm.trans hfault

/-- Settles O54: the poll runs to its `DECODE` step with the buffer that the summary decodes, and completes
with what the decoder answers. -/
theorem acceptedPollMeetsTheAtomicSummary : Obligations.AcceptedPollMeetsTheAtomicSummary := by
  intro s hinv hph hreq hrst hlim
  obtain ⟨c, hc, hlast, hlevel⟩ : ∃ c : Cycle, c.val + 1 = ncyc s.mode6 ∧
      c = (if s.mode6 then 6 else 4) ∧ selLevel c = Config.selIdle := by
    cases s.mode6
    · exact ⟨4, rfl, rfl, rfl⟩
    · exact ⟨6, rfl, rfl, rfl⟩
  have hticks : pollTicks s.params s.mode6 = driveTick s.params (c.val + 1) + 1 := by
    rw [hc, pollTicks, driveTick]
    omega
  obtain ⟨d, hd, hsum⟩ := exists_pollSummary_of_accepted
    (s.inputAt (pollTicks s.params s.mode6 - 1)).nowMs (pollSamples s) hlim
  rw [← hlast] at hsum
  have hrun := run_to_decode hinv hph hreq hrst hlim c hc
  have hinp : (beforeDecode s c).inputAt 0 = s.inputAt (driveTick s.params (c.val + 1)) :=
    inputAt_of_ticks rfl rfl 0
  have hquiet : ((beforeDecode s c).inputAt 0).rst = false := by
    rw [hinp]
    exact hrst _ (by omega)
  have hstep : step (beforeDecode s c) = .next ((beforeDecode s c).sampleInputs.complete d) :=
    (step_of_decode hquiet rfl).trans (exec_decode_of_ok (s := (beforeDecode s c).sampleInputs) hd)
  refine ⟨_, _, by rw [hticks, run_succ_last hrun, hstep], hsum, ?_⟩
  rw [hticks, Nat.add_sub_cancel, ← hinp, ← (beforeDecode s c).nextInputs_eq]
  simp [State.complete, State.emit, State.sampleInputs, beforeDecode, samplingTick, polling, pollTrace,
    hlevel, Nat.add_assoc]

end Sys2Proof.Proofs
end
